-- ==== Sys2Proof/Word.lean ====
section
/-! DEFINITION. The word and address types of the core (00_scope.md R8, R9). -/

namespace Sys2Proof

/-- A word of 32 bits, W_WORD (R8). -/
abbrev Word := BitVec 32

/-- An instruction-memory address of 15 bits, W_IMEM (R8); the width of `exptr`. -/
abbrev IAddr := BitVec 15

/-- An evaluation-stack address of 15 bits, W_STK (R8); the width of `sp`. -/
abbrev SAddr := BitVec 15

/-- An info-table address of 10 bits, W_IT (R8). -/
abbrev TAddr := BitVec 10

end Sys2Proof
end

