-- ==== Sys2Proof/Config.lean ====
section
/-! DEFINITION. What an implementation fixes: the build-time widths (00_scope.md R8), the memory depths
(R9), the model arguments that spec leaves OPEN (R9: `aluOpMap`, `cmpSigned`, `strictContTag`;
93_implementation_defined.md U18: `contExptrOffset`), and the free values. -/

namespace Sys2Proof

/-- The nine build-time width constants (R8). -/
structure Widths where
  wArg : Nat
  wLoc : Nat
  wFv : Nat
  wWord : Nat
  wId : Nat
  wStk : Nat
  wHeap : Nat
  wImem : Nat
  wIt : Nat
  deriving DecidableEq, Repr

/-- The configuration of the hardware this spec describes (R8). -/
def Widths.fixed : Widths :=
  { wArg := 3, wLoc := 4, wFv := 8, wWord := 32, wId := 10, wStk := 15, wHeap := 16, wImem := 15, wIt := 10 }

/-- Why a configuration is refused before a machine exists (R10, R383). -/
inductive ConfigError where
  /-- W_ID is above 24 (R10). Raised by `Machine.validate`. -/
  | idTooWide
  /-- W_IT is above 16 (R10). Raised by `Machine.validate`. -/
  | itTooWide
  /-- Both preconditions hold, but the widths are not those of R8, the only ones this spec describes
  (R11). Raised by `Machine.boot`; safe. -/
  | notTheFixedWidths
  deriving DecidableEq, Repr

/-- The twelve operations of the ALU (30_encoding.md R111). -/
inductive AluFn where
  | and | or | not | xor | add | sub | eq | ne | lt | le | gt | ge
  deriving DecidableEq, Repr

/-- Which operation each of the codes 0x00-0x0B is, code by code (R112, decision D8: a parameter). -/
abbrev AluMap := Vector AluFn 12

/-- The arguments a model takes (R9, U18). They are fixed for the whole run. -/
structure Params where
  /-- the operation of each ALU code 0x00-0x0B (D8) -/
  aluOpMap : AluMap
  /-- the four ordered comparisons are signed (D10) -/
  cmpSigned : Bool
  /-- a CONT return from a slot last written as a value is a fault (D24) -/
  strictContTag : Bool
  /-- what a continuation adds to the `exptr` it saves (D4, U18) -/
  contExptrOffset : BitVec 1
  deriving DecidableEq, Repr

/-- `aluOpMap` gives each of the twelve operations one code (R111). -/
abbrev Params.MapOk (p : Params) : Prop := p.aluOpMap.toList.Nodup

/-- The depths of the memories: every address of each address width (R9, D29). -/
def Config.imemDepth : Nat := 32768
def Config.itabDepth : Nat := 1024
def Config.stkDepth : Nat := 32768

/-- What an unwritten stack slot shows on an output no unit consumes: unspecified (R33, U21). A free
value: nothing constrains it (log entry 8). -/
opaque Config.freeStk : SAddr → Word

/-- What an unwritten argument slot of a bank shows on a port no unit consumes: unspecified (R34,
U21). A free value: nothing constrains it (log entry 9). -/
opaque Config.freeArg : Bool → BitVec 3 → Word

end Sys2Proof
end

