-- ==== Sys2Proof/Signals.lean ====
section
/-! DEFINITION. The control inputs of one cycle, unit by unit (00_scope.md R12, 30_encoding.md R108-R114).
Each unit's signals are one inductive whose constructors are that unit's rows of
spec/opcode_table.json; a constructor keeps the bits that do not matter to its row, so that no bit of a
control vector is lost. -/

namespace Sys2Proof

/-- `xload` and `xsrc` (R110, R190). -/
inductive XOp where
  | hold (xsrc : BitVec 2)
  | inc
  | lit
  | itab
  | cont
  deriving DecidableEq, Repr

/-- `dsrc_sel` (R109); `rsv b` is code 6 or 7, `b` its lowest bit. -/
inductive DOp where
  | loc
  | arg
  | heap
  | imm
  | ret
  | nid
  | rsv (b : BitVec 1)
  deriving DecidableEq, Repr

/-- `aluop` (R112): one of the twelve operations, or a reserved code with its low bits. -/
inductive AluOp where
  | fn (f : AluFn)
  | rsv0C0F (lo : BitVec 2)
  | rsv101F (lo : BitVec 4)
  | rsv203F (lo : BitVec 5)
  | rsv407F (lo : BitVec 6)
  | rsv80FF (lo : BitVec 7)
  deriving DecidableEq, Repr

/-- `arg_we` and `arg_sw` (R252-R255). -/
inductive ArgOp where
  | hold
  | we
  | sw
  | weSw
  deriving DecidableEq, Repr

/-- `ret_ld` and `alu2ret` (R296, R297). -/
inductive RetOp where
  | hold (alu2ret : Bool)
  | ldDv
  | ldAlu
  deriving DecidableEq, Repr

/-- `s_dec`, `s_clr`, `s_wv`, `s_wc` (R221-R226); `conflict b` is two or more of them at once, the bits
being `s_wc`, `s_wv`, `s_clr`, `s_dec` from the top (R228). -/
inductive StkOp where
  | hold
  | wv
  | wc
  | dec
  | clr
  | conflict (bits : BitVec 4)
  deriving DecidableEq, Repr

/-- Every control input of one cycle (R12). -/
structure Ctl where
  x : XOp
  d : DOp
  a : AluOp
  g : ArgOp
  r : RetOp
  k : StkOp
  deriving DecidableEq, Repr

/-- The fields of an instruction word, every view of it (R100). -/
structure InstrFields where
  opcode : BitVec 5
  dsrc : BitVec 3
  name : BitVec 10
  argindex : BitVec 3
  freevarindex : BitVec 8
  litpattern : BitVec 16
  conitable : BitVec 10
  nInstrs : BitVec 8
  imm : BitVec 24
  deriving DecidableEq, Repr

/-- The fields of an info-table entry (R102). -/
structure InfoFields where
  arity : BitVec 3
  nptrs : BitVec 7
  nvars : BitVec 7
  entryCode : BitVec 15
  deriving DecidableEq, Repr

/-- The fields of a continuation record (R104). -/
structure ContFields where
  cExptr : BitVec 15
  cClosure : BitVec 10
  cNlocals : BitVec 4
  deriving DecidableEq, Repr

end Sys2Proof
end

