-- ==== Sys2Proof/Syntax.lean ====
section
/-! DEFINITION. The instructions: one constructor per row of spec/opcode_table.json. A row of format CTRL22
fixes some bits of a cycle's control vector (30_encoding.md R114); its constructor carries the controls
of the other units, so that every vector the row matches is an instruction of it. -/

namespace Sys2Proof

/-- The rows of spec/opcode_table.json. -/
inductive Instr where
  /-- `INSTR` (R140): the fetched instruction word. -/
  | instr (f : InstrFields)
  /-- `INFO` (R151): the info-table word read. -/
  | info (e : InfoFields)
  /-- `CONT` (R223): the continuation record under construction. -/
  | cont (c : ContFields)
  /-- `ALU.AND` (R281). -/
  | aluAnd (x : XOp) (d : DOp) (g : ArgOp) (r : RetOp) (k : StkOp)
  /-- `ALU.OR` (R282). -/
  | aluOr (x : XOp) (d : DOp) (g : ArgOp) (r : RetOp) (k : StkOp)
  /-- `ALU.NOT` (R283). -/
  | aluNot (x : XOp) (d : DOp) (g : ArgOp) (r : RetOp) (k : StkOp)
  /-- `ALU.XOR` (R284). -/
  | aluXor (x : XOp) (d : DOp) (g : ArgOp) (r : RetOp) (k : StkOp)
  /-- `ALU.ADD` (R285). -/
  | aluAdd (x : XOp) (d : DOp) (g : ArgOp) (r : RetOp) (k : StkOp)
  /-- `ALU.SUB` (R286). -/
  | aluSub (x : XOp) (d : DOp) (g : ArgOp) (r : RetOp) (k : StkOp)
  /-- `ALU.EQ` (R287). -/
  | aluEq (x : XOp) (d : DOp) (g : ArgOp) (r : RetOp) (k : StkOp)
  /-- `ALU.NE` (R288). -/
  | aluNe (x : XOp) (d : DOp) (g : ArgOp) (r : RetOp) (k : StkOp)
  /-- `ALU.LT` (R289). -/
  | aluLt (x : XOp) (d : DOp) (g : ArgOp) (r : RetOp) (k : StkOp)
  /-- `ALU.LE` (R290). -/
  | aluLe (x : XOp) (d : DOp) (g : ArgOp) (r : RetOp) (k : StkOp)
  /-- `ALU.GT` (R291). -/
  | aluGt (x : XOp) (d : DOp) (g : ArgOp) (r : RetOp) (k : StkOp)
  /-- `ALU.GE` (R292). -/
  | aluGe (x : XOp) (d : DOp) (g : ArgOp) (r : RetOp) (k : StkOp)
  /-- `ALU.RSV_0C_0F` (R293). -/
  | aluRsv0C0F (lo : BitVec 2) (x : XOp) (d : DOp) (g : ArgOp) (r : RetOp) (k : StkOp)
  /-- `ALU.RSV_10_1F` (R294). -/
  | aluRsv101F (lo : BitVec 4) (x : XOp) (d : DOp) (g : ArgOp) (r : RetOp) (k : StkOp)
  /-- `ALU.RSV_20_3F` (R294). -/
  | aluRsv203F (lo : BitVec 5) (x : XOp) (d : DOp) (g : ArgOp) (r : RetOp) (k : StkOp)
  /-- `ALU.RSV_40_7F` (R294). -/
  | aluRsv407F (lo : BitVec 6) (x : XOp) (d : DOp) (g : ArgOp) (r : RetOp) (k : StkOp)
  /-- `ALU.RSV_80_FF` (R294). -/
  | aluRsv80FF (lo : BitVec 7) (x : XOp) (d : DOp) (g : ArgOp) (r : RetOp) (k : StkOp)
  /-- `DSRC.LOC` (R171). -/
  | dsrcLoc (x : XOp) (a : AluOp) (g : ArgOp) (r : RetOp) (k : StkOp)
  /-- `DSRC.ARG` (R172). -/
  | dsrcArg (x : XOp) (a : AluOp) (g : ArgOp) (r : RetOp) (k : StkOp)
  /-- `DSRC.HEAP` (R173). -/
  | dsrcHeap (x : XOp) (a : AluOp) (g : ArgOp) (r : RetOp) (k : StkOp)
  /-- `DSRC.IMM` (R174). -/
  | dsrcImm (x : XOp) (a : AluOp) (g : ArgOp) (r : RetOp) (k : StkOp)
  /-- `DSRC.RET` (R175). -/
  | dsrcRet (x : XOp) (a : AluOp) (g : ArgOp) (r : RetOp) (k : StkOp)
  /-- `DSRC.NID` (R176). -/
  | dsrcNid (x : XOp) (a : AluOp) (g : ArgOp) (r : RetOp) (k : StkOp)
  /-- `DSRC.RSV_6_7` (R177). -/
  | dsrcRsv67 (b : BitVec 1) (x : XOp) (a : AluOp) (g : ArgOp) (r : RetOp) (k : StkOp)
  /-- `X.HOLD` (R190). -/
  | xHold (xsrc : BitVec 2) (d : DOp) (a : AluOp) (g : ArgOp) (r : RetOp) (k : StkOp)
  /-- `X.INC` (R191). -/
  | xInc (d : DOp) (a : AluOp) (g : ArgOp) (r : RetOp) (k : StkOp)
  /-- `X.LIT` (R192). -/
  | xLit (d : DOp) (a : AluOp) (g : ArgOp) (r : RetOp) (k : StkOp)
  /-- `X.ITAB` (R193). -/
  | xItab (d : DOp) (a : AluOp) (g : ArgOp) (r : RetOp) (k : StkOp)
  /-- `X.CONT` (R194). -/
  | xCont (d : DOp) (a : AluOp) (g : ArgOp) (r : RetOp) (k : StkOp)
  /-- `ARG.WE` (R252). -/
  | argWe (x : XOp) (d : DOp) (a : AluOp) (r : RetOp) (k : StkOp)
  /-- `ARG.SW` (R254). -/
  | argSw (x : XOp) (d : DOp) (a : AluOp) (r : RetOp) (k : StkOp)
  /-- `ARG.WE_SW` (R255). -/
  | argWeSw (x : XOp) (d : DOp) (a : AluOp) (r : RetOp) (k : StkOp)
  /-- `ARG.HOLD` (R323). -/
  | argHold (x : XOp) (d : DOp) (a : AluOp) (r : RetOp) (k : StkOp)
  /-- `RET.LD_DV` (R296). -/
  | retLdDv (x : XOp) (d : DOp) (a : AluOp) (g : ArgOp) (k : StkOp)
  /-- `RET.LD_ALU` (R296). -/
  | retLdAlu (x : XOp) (d : DOp) (a : AluOp) (g : ArgOp) (k : StkOp)
  /-- `RET.HOLD` (R297). -/
  | retHold (alu2ret : Bool) (x : XOp) (d : DOp) (a : AluOp) (g : ArgOp) (k : StkOp)
  /-- `STK.HOLD` (R226). -/
  | stkHold (x : XOp) (d : DOp) (a : AluOp) (g : ArgOp) (r : RetOp)
  /-- `STK.WV` (R221). -/
  | stkWv (x : XOp) (d : DOp) (a : AluOp) (g : ArgOp) (r : RetOp)
  /-- `STK.WC` (R222). -/
  | stkWc (x : XOp) (d : DOp) (a : AluOp) (g : ArgOp) (r : RetOp)
  /-- `STK.DEC` (R224). -/
  | stkDec (x : XOp) (d : DOp) (a : AluOp) (g : ArgOp) (r : RetOp)
  /-- `STK.CLR` (R225). -/
  | stkClr (x : XOp) (d : DOp) (a : AluOp) (g : ArgOp) (r : RetOp)
  /-- `IDLE` (R327). -/
  | idle (xsrc : BitVec 2) (d : DOp) (a : AluOp)
  deriving DecidableEq, Repr

/-- The control inputs of an instruction of format CTRL22; none for the three formats of 32 bits. -/
def Instr.ctl : Instr → Option Ctl
  | .instr _ => none
  | .info _ => none
  | .cont _ => none
  | .aluAnd x d g r k => some ⟨x, d, .fn .and, g, r, k⟩
  | .aluOr x d g r k => some ⟨x, d, .fn .or, g, r, k⟩
  | .aluNot x d g r k => some ⟨x, d, .fn .not, g, r, k⟩
  | .aluXor x d g r k => some ⟨x, d, .fn .xor, g, r, k⟩
  | .aluAdd x d g r k => some ⟨x, d, .fn .add, g, r, k⟩
  | .aluSub x d g r k => some ⟨x, d, .fn .sub, g, r, k⟩
  | .aluEq x d g r k => some ⟨x, d, .fn .eq, g, r, k⟩
  | .aluNe x d g r k => some ⟨x, d, .fn .ne, g, r, k⟩
  | .aluLt x d g r k => some ⟨x, d, .fn .lt, g, r, k⟩
  | .aluLe x d g r k => some ⟨x, d, .fn .le, g, r, k⟩
  | .aluGt x d g r k => some ⟨x, d, .fn .gt, g, r, k⟩
  | .aluGe x d g r k => some ⟨x, d, .fn .ge, g, r, k⟩
  | .aluRsv0C0F lo x d g r k => some ⟨x, d, .rsv0C0F lo, g, r, k⟩
  | .aluRsv101F lo x d g r k => some ⟨x, d, .rsv101F lo, g, r, k⟩
  | .aluRsv203F lo x d g r k => some ⟨x, d, .rsv203F lo, g, r, k⟩
  | .aluRsv407F lo x d g r k => some ⟨x, d, .rsv407F lo, g, r, k⟩
  | .aluRsv80FF lo x d g r k => some ⟨x, d, .rsv80FF lo, g, r, k⟩
  | .dsrcLoc x a g r k => some ⟨x, .loc, a, g, r, k⟩
  | .dsrcArg x a g r k => some ⟨x, .arg, a, g, r, k⟩
  | .dsrcHeap x a g r k => some ⟨x, .heap, a, g, r, k⟩
  | .dsrcImm x a g r k => some ⟨x, .imm, a, g, r, k⟩
  | .dsrcRet x a g r k => some ⟨x, .ret, a, g, r, k⟩
  | .dsrcNid x a g r k => some ⟨x, .nid, a, g, r, k⟩
  | .dsrcRsv67 b x a g r k => some ⟨x, .rsv b, a, g, r, k⟩
  | .xHold xsrc d a g r k => some ⟨.hold xsrc, d, a, g, r, k⟩
  | .xInc d a g r k => some ⟨.inc, d, a, g, r, k⟩
  | .xLit d a g r k => some ⟨.lit, d, a, g, r, k⟩
  | .xItab d a g r k => some ⟨.itab, d, a, g, r, k⟩
  | .xCont d a g r k => some ⟨.cont, d, a, g, r, k⟩
  | .argWe x d a r k => some ⟨x, d, a, .we, r, k⟩
  | .argSw x d a r k => some ⟨x, d, a, .sw, r, k⟩
  | .argWeSw x d a r k => some ⟨x, d, a, .weSw, r, k⟩
  | .argHold x d a r k => some ⟨x, d, a, .hold, r, k⟩
  | .retLdDv x d a g k => some ⟨x, d, a, g, .ldDv, k⟩
  | .retLdAlu x d a g k => some ⟨x, d, a, g, .ldAlu, k⟩
  | .retHold alu2ret x d a g k => some ⟨x, d, a, g, .hold alu2ret, k⟩
  | .stkHold x d a g r => some ⟨x, d, a, g, r, .hold⟩
  | .stkWv x d a g r => some ⟨x, d, a, g, r, .wv⟩
  | .stkWc x d a g r => some ⟨x, d, a, g, r, .wc⟩
  | .stkDec x d a g r => some ⟨x, d, a, g, r, .dec⟩
  | .stkClr x d a g r => some ⟨x, d, a, g, r, .clr⟩
  | .idle xsrc d a => some ⟨.hold xsrc, d, a, .hold, .hold false, .hold⟩

end Sys2Proof
end

