-- ==== Sys2Proof/WellFormed.lean ====
section
/-! DEFINITION. Which terms of `Instr` stand for words of spec/opcode_table.json. -/

namespace Sys2Proof

/-- The views of one instruction word agree on the bits they share (30_encoding.md R100). -/
def InstrFields.wf (f : InstrFields) : Bool :=
  f.name == f.imm.extractLsb' 0 10 && f.argindex == f.imm.extractLsb' 0 3 &&
  f.freevarindex == f.imm.extractLsb' 0 8 && f.litpattern == f.imm.extractLsb' 8 16 &&
  f.conitable == f.imm.extractLsb' 8 10 && f.nInstrs == f.imm.extractLsb' 0 8

/-- A stack conflict has two or more controls asserted (43_eval_stack.md R228). -/
def StkOp.wf : StkOp → Bool
  | .conflict b => b != 0 && b != 1 && b != 2 && b != 4 && b != 8
  | .hold | .wv | .wc | .dec | .clr => true

/-- `i` stands for a word: its views agree, and its stack controls are a conflict only if two or more
are asserted. -/
def WellFormed (i : Instr) : Bool :=
  match i with
  | .instr f => f.wf
  | i => match i.ctl with
    | some c => c.k.wf
    | none => true

end Sys2Proof
end

