-- ==== Sys2Proof/Decode.lean ====
section
/-! DEFINITION. Decoding and encoding: the field decoder (40_field_decoder.md), the code tables of the control
inputs (30_encoding.md R109-R114), every row's reading of a control vector, and the encoder. -/

namespace Sys2Proof

/-! ### The three formats of 32 bits -/

/-- The instruction-word half of the Field Decoder: every view at once (R140-R149). -/
def decodeInstr (w : Word) : InstrFields where
  opcode := w.extractLsb' 27 5
  dsrc := w.extractLsb' 24 3
  name := w.extractLsb' 0 10
  argindex := w.extractLsb' 0 3
  freevarindex := w.extractLsb' 0 8
  litpattern := w.extractLsb' 8 16
  conitable := w.extractLsb' 8 10
  nInstrs := w.extractLsb' 0 8
  imm := w.extractLsb' 0 24

/-- The info-table half of the Field Decoder (R151-R154). -/
def decodeInfo (w : Word) : InfoFields where
  arity := w.extractLsb' 29 3
  nptrs := w.extractLsb' 22 7
  nvars := w.extractLsb' 15 7
  entryCode := w.extractLsb' 0 15

/-- The continuation sub-fields of a stack word; bits 31-29 are not looked at (R220, R104). -/
def contFields (w : Word) : ContFields where
  cExptr := w.extractLsb' 14 15
  cClosure := w.extractLsb' 4 10
  cNlocals := w.extractLsb' 0 4

/-- The instruction word with these fields (R100). -/
def encodeInstr (f : InstrFields) : Word := f.opcode ++ f.dsrc ++ f.imm

/-- The info-table entry with these fields (R102). -/
def encodeInfo (e : InfoFields) : Word := e.arity ++ e.nptrs ++ e.nvars ++ e.entryCode

/-- The continuation record: 29 bits, zero-extended (R104, decisions D2 and D3). -/
def encodeCont (c : ContFields) : Word := 0#3 ++ c.cExptr ++ c.cClosure ++ c.cNlocals

/-! ### The control inputs, unit by unit -/

/-- `xload` (bit 2) and `xsrc` (bits 1-0); the codes of R110 (decision D7). -/
def XOp.ofBits (b : BitVec 3) : XOp :=
  let xsrc := b.extractLsb' 0 2
  if b.getLsbD 2 then
    if xsrc = 0 then .inc else if xsrc = 1 then .lit else if xsrc = 2 then .itab else .cont
  else .hold xsrc

def XOp.bits : XOp → BitVec 3
  | .hold xsrc => 0#1 ++ xsrc
  | .inc => 4
  | .lit => 5
  | .itab => 6
  | .cont => 7

/-- `dsrc_sel`; the codes of R109 (decision D6). -/
def DOp.ofBits (b : BitVec 3) : DOp :=
  if b = 0 then .loc else if b = 1 then .arg else if b = 2 then .heap else if b = 3 then .imm
  else if b = 4 then .ret else if b = 5 then .nid else .rsv (b.extractLsb' 0 1)

def DOp.bits : DOp → BitVec 3
  | .loc => 0
  | .arg => 1
  | .heap => 2
  | .imm => 3
  | .ret => 4
  | .nid => 5
  | .rsv b => 3#2 ++ b

/-- The table of R112 (decision D8): the default of `aluOpMap`. -/
def AluMap.spec : AluMap :=
  #v[.and, .or, .not, .xor, .add, .sub, .eq, .ne, .lt, .le, .gt, .ge]

/-- The reserved codes, from 0x0C up (R112, R113). -/
def AluOp.reserved (b : BitVec 8) : AluOp :=
  if b.toNat < 16 then .rsv0C0F (b.extractLsb' 0 2)
  else if b.toNat < 32 then .rsv101F (b.extractLsb' 0 4)
  else if b.toNat < 64 then .rsv203F (b.extractLsb' 0 5)
  else if b.toNat < 128 then .rsv407F (b.extractLsb' 0 6)
  else .rsv80FF (b.extractLsb' 0 7)

/-- `aluop` under an assignment of the twelve codes (R111-R113). -/
def AluOp.ofBits (m : AluMap) (b : BitVec 8) : AluOp :=
  if h : b.toNat < 12 then .fn (m[b.toNat]'h) else .reserved b

def AluOp.bits (m : AluMap) : AluOp → BitVec 8
  | .fn f => BitVec.ofNat 8 (m.toList.idxOf f)
  | .rsv0C0F lo => 3#6 ++ lo
  | .rsv101F lo => 1#4 ++ lo
  | .rsv203F lo => 1#3 ++ lo
  | .rsv407F lo => 1#2 ++ lo
  | .rsv80FF lo => 1#1 ++ lo

/-- `arg_sw` (bit 1) and `arg_we` (bit 0). -/
def ArgOp.ofBits (b : BitVec 2) : ArgOp :=
  if b = 0 then .hold else if b = 1 then .we else if b = 2 then .sw else .weSw

def ArgOp.bits : ArgOp → BitVec 2
  | .hold => 0
  | .we => 1
  | .sw => 2
  | .weSw => 3

/-- `ret_ld` (bit 1) and `alu2ret` (bit 0). -/
def RetOp.ofBits (b : BitVec 2) : RetOp :=
  if b = 0 then .hold false else if b = 1 then .hold true else if b = 2 then .ldDv else .ldAlu

def RetOp.bits : RetOp → BitVec 2
  | .hold false => 0
  | .hold true => 1
  | .ldDv => 2
  | .ldAlu => 3

/-- `s_wc`, `s_wv`, `s_clr`, `s_dec`, from bit 3 down. -/
def StkOp.ofBits (b : BitVec 4) : StkOp :=
  if b = 0 then .hold else if b = 1 then .dec else if b = 2 then .clr
  else if b = 4 then .wv else if b = 8 then .wc else .conflict b

def StkOp.bits : StkOp → BitVec 4
  | .hold => 0
  | .dec => 1
  | .clr => 2
  | .wv => 4
  | .wc => 8
  | .conflict b => b

/-! ### The control vector -/

/-- The control inputs packed in a 22-bit control vector (R114). -/
def Ctl.ofWord (m : AluMap) (w : BitVec 22) : Ctl where
  x := .ofBits (w.extractLsb' 0 3)
  d := .ofBits (w.extractLsb' 3 3)
  a := .ofBits m (w.extractLsb' 6 8)
  g := .ofBits (w.extractLsb' 14 2)
  r := .ofBits (w.extractLsb' 16 2)
  k := .ofBits (w.extractLsb' 18 4)

/-- The packing of R114. -/
def Ctl.toWord (m : AluMap) (c : Ctl) : BitVec 22 :=
  c.k.bits ++ c.r.bits ++ c.g.bits ++ c.a.bits m ++ c.d.bits ++ c.x.bits

/-- The reading of a cycle's controls by the ALU rows. -/
def Ctl.aluRow (c : Ctl) : Instr :=
  match c.a with
  | .fn .and => .aluAnd c.x c.d c.g c.r c.k
  | .fn .or => .aluOr c.x c.d c.g c.r c.k
  | .fn .not => .aluNot c.x c.d c.g c.r c.k
  | .fn .xor => .aluXor c.x c.d c.g c.r c.k
  | .fn .add => .aluAdd c.x c.d c.g c.r c.k
  | .fn .sub => .aluSub c.x c.d c.g c.r c.k
  | .fn .eq => .aluEq c.x c.d c.g c.r c.k
  | .fn .ne => .aluNe c.x c.d c.g c.r c.k
  | .fn .lt => .aluLt c.x c.d c.g c.r c.k
  | .fn .le => .aluLe c.x c.d c.g c.r c.k
  | .fn .gt => .aluGt c.x c.d c.g c.r c.k
  | .fn .ge => .aluGe c.x c.d c.g c.r c.k
  | .rsv0C0F lo => .aluRsv0C0F lo c.x c.d c.g c.r c.k
  | .rsv101F lo => .aluRsv101F lo c.x c.d c.g c.r c.k
  | .rsv203F lo => .aluRsv203F lo c.x c.d c.g c.r c.k
  | .rsv407F lo => .aluRsv407F lo c.x c.d c.g c.r c.k
  | .rsv80FF lo => .aluRsv80FF lo c.x c.d c.g c.r c.k

/-- The reading by the data-source rows. -/
def Ctl.dsrcRow (c : Ctl) : Instr :=
  match c.d with
  | .loc => .dsrcLoc c.x c.a c.g c.r c.k
  | .arg => .dsrcArg c.x c.a c.g c.r c.k
  | .heap => .dsrcHeap c.x c.a c.g c.r c.k
  | .imm => .dsrcImm c.x c.a c.g c.r c.k
  | .ret => .dsrcRet c.x c.a c.g c.r c.k
  | .nid => .dsrcNid c.x c.a c.g c.r c.k
  | .rsv b => .dsrcRsv67 b c.x c.a c.g c.r c.k

/-- The reading by the execution-pointer rows. -/
def Ctl.xRow (c : Ctl) : Instr :=
  match c.x with
  | .hold xsrc => .xHold xsrc c.d c.a c.g c.r c.k
  | .inc => .xInc c.d c.a c.g c.r c.k
  | .lit => .xLit c.d c.a c.g c.r c.k
  | .itab => .xItab c.d c.a c.g c.r c.k
  | .cont => .xCont c.d c.a c.g c.r c.k

/-- The reading by the argument-bank rows. -/
def Ctl.argRow (c : Ctl) : Instr :=
  match c.g with
  | .hold => .argHold c.x c.d c.a c.r c.k
  | .we => .argWe c.x c.d c.a c.r c.k
  | .sw => .argSw c.x c.d c.a c.r c.k
  | .weSw => .argWeSw c.x c.d c.a c.r c.k

/-- The reading by the return-register rows. -/
def Ctl.retRow (c : Ctl) : Instr :=
  match c.r with
  | .hold b => .retHold b c.x c.d c.a c.g c.k
  | .ldDv => .retLdDv c.x c.d c.a c.g c.k
  | .ldAlu => .retLdAlu c.x c.d c.a c.g c.k

/-- The reading by the stack rows; no row of the table matches a conflict (R228). -/
def Ctl.stkRow (c : Ctl) : List Instr :=
  match c.k with
  | .hold => [.stkHold c.x c.d c.a c.g c.r]
  | .wv => [.stkWv c.x c.d c.a c.g c.r]
  | .wc => [.stkWc c.x c.d c.a c.g c.r]
  | .dec => [.stkDec c.x c.d c.a c.g c.r]
  | .clr => [.stkClr c.x c.d c.a c.g c.r]
  | .conflict _ => []

/-- The reading by the row `IDLE`: every single-bit signal 0 (R327). -/
def Ctl.idleRow (c : Ctl) : List Instr :=
  match c with
  | ⟨.hold xsrc, d, a, .hold, .hold false, .hold⟩ => [.idle xsrc d a]
  | _ => []

/-- Every row of the table that reads these controls. -/
def Ctl.rows (c : Ctl) : List Instr :=
  [c.aluRow, c.dsrcRow, c.xRow, c.argRow, c.retRow] ++ c.stkRow ++ c.idleRow

/-- Every row of the table that reads this control vector. -/
def readings (m : AluMap) (w : BitVec 22) : List Instr := (Ctl.ofWord m w).rows

/-- ONE row for a control vector: the first unit that does something, in the order stack, argument
bank, return register, execution pointer; else the first selector that is not 0; else `IDLE`. All rows
of a vector have one meaning (log entry 2), so the choice is a name only. -/
def Ctl.leadRow (c : Ctl) : Instr :=
  match c.k, c.g, c.r, c.x with
  | .wv, _, _, _ => .stkWv c.x c.d c.a c.g c.r
  | .wc, _, _, _ => .stkWc c.x c.d c.a c.g c.r
  | .dec, _, _, _ => .stkDec c.x c.d c.a c.g c.r
  | .clr, _, _, _ => .stkClr c.x c.d c.a c.g c.r
  | k, .we, _, _ => .argWe c.x c.d c.a c.r k
  | k, .sw, _, _ => .argSw c.x c.d c.a c.r k
  | k, .weSw, _, _ => .argWeSw c.x c.d c.a c.r k
  | k, .hold, .ldDv, _ => .retLdDv c.x c.d c.a c.g k
  | k, .hold, .ldAlu, _ => .retLdAlu c.x c.d c.a c.g k
  | k, .hold, .hold b, .inc => .xInc c.d c.a c.g (.hold b) k
  | k, .hold, .hold b, .lit => .xLit c.d c.a c.g (.hold b) k
  | k, .hold, .hold b, .itab => .xItab c.d c.a c.g (.hold b) k
  | k, .hold, .hold b, .cont => .xCont c.d c.a c.g (.hold b) k
  | .hold, .hold, .hold false, .hold xsrc =>
    if c.a ≠ .fn .and then c.aluRow else if c.d ≠ .loc then c.dsrcRow else .idle xsrc c.d c.a
  | k, .hold, .hold b, .hold _ => .retHold b c.x c.d c.a c.g k

/-- The instruction a control vector is decoded to. -/
def decodeControl (m : AluMap) (w : BitVec 22) : Instr := (Ctl.ofWord m w).leadRow

/-! ### The decoder on numbered bits, and the encoder -/

/-- The formats of spec/opcode_table.json. -/
inductive Format where
  | instr32 | info32 | cont32 | ctrl22
  deriving DecidableEq, Repr

/-- Why bits are no instruction. -/
inductive DecodeError where
  /-- bits 31-29 of a continuation record are not 0 (R104) -/
  | contHighBits
  /-- a control vector has 22 bits (R114), and a bit above them is set -/
  | controlHighBits
  /-- a stored word has 32 bits (R106), and a bit above them is set -/
  | wordHighBits
  deriving DecidableEq, Repr

/-- What a row of format `fmt` reads from the bits `w`. -/
def decodeAs (m : AluMap) (fmt : Format) (w : Nat) : Except DecodeError Instr :=
  match fmt with
  | .instr32 => if w < 2 ^ 32 then .ok (.instr (decodeInstr (BitVec.ofNat 32 w))) else .error .wordHighBits
  | .info32 => if w < 2 ^ 32 then .ok (.info (decodeInfo (BitVec.ofNat 32 w))) else .error .wordHighBits
  | .cont32 =>
    if w < 2 ^ 29 then .ok (.cont (contFields (BitVec.ofNat 32 w)))
    else if w < 2 ^ 32 then .error .contHighBits else .error .wordHighBits
  | .ctrl22 => if w < 2 ^ 22 then .ok (decodeControl m (BitVec.ofNat 22 w)) else .error .controlHighBits

/-- The format of an instruction. -/
def Instr.format : Instr → Format
  | .instr _ => .instr32
  | .info _ => .info32
  | .cont _ => .cont32
  | _ => .ctrl22

/-- The bits of an instruction, as spec/opcode_table.json numbers them. -/
def encode (m : AluMap) (i : Instr) : Nat :=
  match i with
  | .instr f => (encodeInstr f).toNat
  | .info e => (encodeInfo e).toNat
  | .cont c => (encodeCont c).toNat
  | i => match i.ctl with
    | some c => (c.toWord m).toNat
    | none => 0

/-- The instruction the decoder reads from `nbits` bits `w`: up to 24 bits are a control vector, more
are a word fetched as an instruction (log entry 15). -/
def decodeTableWord (nbits w : Nat) : Option Instr :=
  (decodeAs AluMap.spec (if nbits ≤ 24 then .ctrl22 else .instr32) w).toOption

end Sys2Proof
end

