-- ==== Sys2Proof/Machine/Params.lean ====
section
/-! DEFINITION. The default values of the model's arguments (00_scope.md R9). -/

namespace Sys2Proof.Machine

/-- The defaults of decisions D8, D10, D24 and D4. -/
def defaultParams : Params :=
  { aluOpMap := AluMap.spec, cmpSigned := false, strictContTag := true, contExptrOffset := 0 }

/-- A word of an image that is not listed reads as 0 (95_test_vectors.md, notation; log entry 7). -/
def unlistedWord : Word := 0

end Sys2Proof.Machine
end

