-- ==== Sys2Proof/Machine/State.lean ====
section
/-! DEFINITION. The state of the core (10_state.md R30-R45, 70_reset_and_hazards.md R380), as plain data. -/

namespace Sys2Proof.Machine

/-- Which path wrote a stack slot (R43). -/
inductive SlotTag where
  | value
  | cont
  deriving DecidableEq, Repr

/-- A stack slot that has been written: its word, and the shadow tag (R33, R43). -/
structure StkCell where
  word : Word
  tag : SlotTag
  deriving DecidableEq, Repr

/-- The shadow tag of any stack slot, `STK_TAG[a]` (R43). -/
inductive StkTag where
  | unwritten
  | value
  | cont
  deriving DecidableEq, Repr

/-- One argument slot: its word, and the shadow flag `ARG_W` (R34, R43). While `written` is false the
word is no value of the hardware, and no read gives it. -/
structure ArgSlot where
  val : Word
  written : Bool
  deriving DecidableEq, Repr

/-- An argument bank: 8 slots (R34). -/
abbrev Bank := Vector ArgSlot 8

/-- The inputs of one cycle (00_scope.md R12): the packed control vector (30_encoding.md R114) and the
five data inputs. -/
structure CycleIn where
  /-- the control vector -/
  cv : BitVec 22
  localsOut : Word
  heapOut : Word
  newId : BitVec 10
  curClosure : BitVec 10
  nLocals : BitVec 4
  deriving DecidableEq, Repr

/-- The state of the core, with the configuration and the host's coming cycles beside it. -/
structure State where
  /-- the execution pointer (R30) -/
  exptr : IAddr
  /-- the stack pointer (R32) -/
  sp : SAddr
  /-- `STK` and `STK_TAG`: the written slots, by rising address; an unlisted slot is `Unwritten` (R33, R43) -/
  stk : List (Nat × StkCell)
  /-- `ARG[0]` and `ARG_W[0]` (R34, R43) -/
  bank0 : Bank
  /-- `ARG[1]` and `ARG_W[1]` (R34, R43) -/
  bank1 : Bank
  /-- the bank roles: the write bank is `ARG[bstate]` (R35) -/
  bstate : Bool
  /-- the argument counter (R36) -/
  acount : BitVec 3
  /-- shadow: argument writes since the last flip (R43) -/
  awrites : Nat
  /-- the return register (R37) -/
  ret : Word
  /-- `IMEM`, by rising address; an unlisted word is `unlistedWord` (R38) -/
  imem : List (Nat × Word)
  /-- `ITAB`, by rising address; an unlisted word is `unlistedWord` (R39) -/
  itab : List (Nat × Word)
  /-- the model's arguments, fixed for the run (R321) -/
  cfg : Params
  /-- the model's own field: the inputs of the coming cycles, the current one first (R321, R326) -/
  stim : List CycleIn
  deriving DecidableEq, Repr

/-- The model faults of 60_exceptions.md R351, each with the state of the cycle that raised it, whose
`stim` begins with that cycle's inputs. All are raised by `firstFault` (R322), before anything commits.
All are safe: each stands where the source gives no behaviour. -/
inductive Fault where
  /-- Code 1: two or more of `s_wv`, `s_wc`, `s_dec`, `s_clr` (R228). Safe. -/
  | stackControlConflict (s : State)
  /-- Code 2: a push with `sp` = 0x7FFF (R229). Safe. -/
  | stackOverflow (s : State)
  /-- Code 3: `s_dec` with `sp` = 0, or `s_clr` with `n_locals` above `sp` (R230). Safe. -/
  | stackUnderflow (s : State)
  /-- Code 4: a ninth argument write since the last flip (R256). Safe. -/
  | argOverflow (s : State)
  /-- Code 5: a consumed read of a slot never written since reset (R172, R280, R194; named so by R322, R351, R380
and decision D25). Safe. -/
  | unwrittenRead (s : State)
  /-- Code 6: a CONT return from a slot last written as a value, under `strictContTag` (R194). Safe. -/
  | contTagMismatch (s : State)
  /-- Code 7: an access beyond a memory's depth (R67). The memories have full depth, so no step raises
  it. Safe. -/
  | outOfRange (s : State)
  deriving DecidableEq, Repr

/-- Why a step has no meaning. -/
inductive Refusal where
  /-- An instruction with no meaning yet. Raised by refused arms of `exec` only; safe. -/
  | notModelled (mnemonic : String)
  /-- The host supplies no further cycle: the run has ended (46_cycle_step.md R326). Raised by every
  instruction and by `step` when `stim` is empty; safe, since nothing is claimed of later cycles. -/
  | noCycle
  deriving DecidableEq, Repr

/-- An argument slot after reset: unwritten (R380). The word is a placeholder (DESIGN CHOICE, log
entry 9). -/
def ArgSlot.reset : ArgSlot := { val := 0, written := false }

/-- A bank after reset (R380). -/
def Bank.reset : Bank := Vector.replicate 8 ArgSlot.reset

/-- The machine right after reset (R380), with the default arguments, the zero images (log entry 7) and
no cycle supplied yet (log entry 4). -/
def State.reset : State where
  exptr := 0
  sp := 0
  stk := []
  bank0 := Bank.reset
  bank1 := Bank.reset
  bstate := false
  acount := 0
  awrites := 0
  ret := 0
  imem := []
  itab := []
  cfg := defaultParams
  stim := []

end Sys2Proof.Machine
end

