-- ==== Sys2Proof/Machine/Ops.lean ====
section
/-! DEFINITION. The named operations over the memories, the argument banks and the inputs. -/

namespace Sys2Proof.Machine

/-! ### Memories: cells by strictly rising address (20_memory.md R60; log entry 10) -/

/-- The cell at address `a`, if it is listed. -/
def Memory.lookup {α : Type} : List (Nat × α) → Nat → Option α
  | [], _ => none
  | (b, v) :: m, a => if a = b then some v else Memory.lookup m a

/-- `m` with `v` listed at `a`. -/
def Memory.insert {α : Type} : List (Nat × α) → Nat → α → List (Nat × α)
  | [], a, v => [(a, v)]
  | (b, w) :: m, a, v =>
    if a < b then (a, v) :: (b, w) :: m
    else if a = b then (a, v) :: m
    else (b, w) :: Memory.insert m a v

/-- `m` with nothing listed at `a`. -/
def Memory.erase {α : Type} (m : List (Nat × α)) (a : Nat) : List (Nat × α) :=
  m.filter (fun c => c.1 != a)

/-- The canonical form of a memory of `depth` words: addresses strictly rising and inside the memory. -/
abbrev Memory.wf {α : Type} (depth : Nat) (m : List (Nat × α)) : Prop :=
  m.Pairwise (fun c d => c.1 < d.1) ∧ ∀ c ∈ m, c.1 < depth

/-- The canonical form of an image: besides, no cell equal to what an unlisted address reads as. -/
abbrev Image.wf (depth : Nat) (m : List (Nat × Word)) : Prop :=
  Memory.wf depth m ∧ ∀ c ∈ m, c.2 ≠ unlistedWord

/-- `MemRead(IMEM, a)` and `MemRead(ITAB, a)` (00_scope.md R17). -/
def Image.read (m : List (Nat × Word)) (a : Nat) : Word :=
  (Memory.lookup m a).getD unlistedWord

/-- Loading one word of an image, before the run (70_reset_and_hazards.md R382). -/
def Image.load (m : List (Nat × Word)) (a : Nat) (v : Word) : List (Nat × Word) :=
  if v = unlistedWord then Memory.erase m a else Memory.insert m a v

/-- `STK_TAG[a]` (10_state.md R43). -/
def stkTag (s : State) (a : SAddr) : StkTag :=
  match Memory.lookup s.stk a.toNat with
  | none => .unwritten
  | some c => match c.tag with
    | .value => .value
    | .cont => .cont

/-- `MemRead(STK, a)` (R17); an unwritten slot shows an unspecified word (R380). -/
def stkRead (s : State) (a : SAddr) : Word :=
  match Memory.lookup s.stk a.toNat with
  | none => Config.freeStk a
  | some c => c.word

/-- `MemWrite(STK, a, v)` with its tag (R17, R43). -/
def stkWrite (m : List (Nat × StkCell)) (a : SAddr) (v : Word) (t : SlotTag) : List (Nat × StkCell) :=
  Memory.insert m a.toNat { word := v, tag := t }

/-- The memories of `s` are in canonical form. -/
abbrev MemWf (s : State) : Prop :=
  Image.wf Config.imemDepth s.imem ∧ Image.wf Config.itabDepth s.itab ∧
  Memory.wf Config.stkDepth s.stk

/-! ### The argument banks (44_arg_bank.md) -/

/-- Bank `b` of `s`: `false` is bank 0, `true` bank 1. -/
def bank (s : State) (b : Bool) : Bank := if b then s.bank1 else s.bank0

/-- The read bank's number (R257). -/
def readBank (s : State) : Bool := !s.bstate

/-- The write bank's number (R257). -/
def writeBank (s : State) : Bool := s.bstate

/-- `ARG_W[b][i]` (10_state.md R43). -/
def argWritten (s : State) (b : Bool) (i : BitVec 3) : Bool := ((bank s b)[i.toNat]'i.isLt).written

/-- `ARG[b][i]` (R17); an unwritten slot shows an unspecified word (R380). -/
def argRead (s : State) (b : Bool) (i : BitVec 3) : Word :=
  if argWritten s b i then ((bank s b)[i.toNat]'i.isLt).val else Config.freeArg b i

/-- `ARG[b][i] <- v` in one bank, with its flag (R17, R252). -/
def bankWrite (k : Bank) (i : BitVec 3) (v : Word) : Bank :=
  k.set i.toNat { val := v, written := true } i.isLt

/-! ### Fetch and the info-table read (42_exptr_fetch.md R196-R198) -/

/-- The instruction word of the current cycle, `MemRead(IMEM, exptr)` (R196). -/
def fetchWord (s : State) : Word := Image.read s.imem s.exptr.toNat

/-- The info-table address, `heap_out[9:0]` (R197, decision D17). -/
def infoAddr (inp : CycleIn) : TAddr := inp.heapOut.extractLsb' 0 10

/-- The info-table word of the current cycle, `MemRead(ITAB, ita)` (R198). -/
def infoWord (s : State) (inp : CycleIn) : Word := Image.read s.itab (infoAddr inp).toNat

/-- The word on the top-of-stack port (43_eval_stack.md R220). -/
def tos (s : State) : Word := stkRead s s.sp

/-- Every access of the cycle is inside its memory (20_memory.md R67). -/
def accessesInRange (s : State) (inp : CycleIn) : Bool :=
  decide (s.exptr.toNat < Config.imemDepth) && decide ((infoAddr inp).toNat < Config.itabDepth) &&
  decide (s.sp.toNat < Config.stkDepth) && decide ((s.sp + 1).toNat < Config.stkDepth)

end Sys2Proof.Machine
end

