-- ==== Sys2Proof/Machine/Flags.lean ====
section
/-! DEFINITION. The core has no flags (10_state.md R40): a comparison delivers its truth value as a word
(45_alu_return.md section 4). -/

namespace Sys2Proof.Machine

/-- 1 when the comparison holds, else 0, zero-extended to 32 bits (decision D11). -/
def truthWord (b : Bool) : Word := if b then 1 else 0

/-- `A < B`, unsigned, or two's complement when `cmpSigned` (R289, decision D10). -/
def cmpLt (signed : Bool) (a b : Word) : Bool := if signed then a.slt b else a.ult b

/-- `A ≤ B` (R290, decision D10). -/
def cmpLe (signed : Bool) (a b : Word) : Bool := if signed then a.sle b else a.ule b

end Sys2Proof.Machine
end

