-- ==== Sys2Proof/Machine/Operands.lean ====
section
/-! DEFINITION. The combinational units: the data source (41_data_source_mux.md), the ALU
(45_alu_return.md), the continuation word (43_eval_stack.md R223) and the sources of the execution
pointer (42_exptr_fetch.md). -/

namespace Sys2Proof.Machine

/-- The argument read port (44_arg_bank.md R250). -/
def argPort (s : State) (f : InstrFields) : Word := argRead s (readBank s) f.argindex

/-- The ALU operand A: slot 0 of the read bank (R251). -/
def opA (s : State) : Word := argRead s (readBank s) 0

/-- The ALU operand B: slot 1 of the read bank (R251). -/
def opB (s : State) : Word := argRead s (readBank s) 1

/-- The data value `dv` (R170). -/
def dataValue (d : DOp) (f : InstrFields) (inp : CycleIn) (s : State) : Word :=
  match d with
  | .loc => inp.localsOut
  | .arg => argPort s f
  | .heap => inp.heapOut
  | .imm => f.imm.setWidth 32
  | .ret => s.ret
  | .nid => inp.newId.setWidth 32
  | .rsv _ => 0

/-- The twelve operations on A and B (R281-R292). -/
def aluFn (signed : Bool) (f : AluFn) (a b : Word) : Word :=
  match f with
  | .and => a &&& b
  | .or => a ||| b
  | .not => ~~~a
  | .xor => a ^^^ b
  | .add => a + b
  | .sub => a - b
  | .eq => truthWord (a == b)
  | .ne => truthWord (a != b)
  | .lt => truthWord (cmpLt signed a b)
  | .le => truthWord (cmpLe signed a b)
  | .gt => truthWord (cmpLt signed b a)
  | .ge => truthWord (cmpLe signed b a)

/-- The ALU's output: a reserved code gives 0 (R280, R293, R294). -/
def aluOut (signed : Bool) (op : AluOp) (a b : Word) : Word :=
  match op with
  | .fn f => aluFn signed f a b
  | .rsv0C0F _ | .rsv101F _ | .rsv203F _ | .rsv407F _ | .rsv80FF _ => 0

/-- The operation reads slot 0 (R280). -/
def readsA (op : AluOp) : Bool :=
  match op with
  | .fn _ => true
  | .rsv0C0F _ | .rsv101F _ | .rsv203F _ | .rsv407F _ | .rsv80FF _ => false

/-- The operation reads slot 1: every one but NOT (R280, R283). -/
def readsB (op : AluOp) : Bool :=
  match op with
  | .fn .not => false
  | .fn _ => true
  | .rsv0C0F _ | .rsv101F _ | .rsv203F _ | .rsv407F _ | .rsv80FF _ => false

/-- The continuation record under construction: the committed `exptr`, plus the parameter
`contExptrOffset`, and the two caller-state inputs (R223, U18). -/
def contNow (s : State) (inp : CycleIn) : ContFields where
  cExptr := s.exptr + s.cfg.contExptrOffset.setWidth 15
  cClosure := inp.curClosure
  cNlocals := inp.nLocals

/-- `exptr` at the end of the cycle (R190-R194); `f`, `e` are the decoded words of the cycle. -/
def nextExptr (x : XOp) (f : InstrFields) (e : InfoFields) (s : State) : IAddr :=
  match x with
  | .hold _ => s.exptr
  | .inc => s.exptr + 1
  | .lit => f.nInstrs.setWidth 15
  | .itab => e.entryCode
  | .cont => (contFields (tos s)).cExptr

/-- `dv` is consumed in the cycle (R178). -/
def dvUsed (c : Ctl) : Bool :=
  c.k == .wv || (c.g == .we || c.g == .weSw) || c.r == .ldDv

end Sys2Proof.Machine
end

