-- ==== Sys2Proof/Machine/Cycle.lean ====
section
/-! DEFINITION. One clock cycle (46_cycle_step.md R322-R323): the checks in their order, then the commit of
every unit at once. The core raises no exception (60_exceptions.md R350, R355): `firstFault` is the one
shared operation that ends a cycle in a model fault. -/

namespace Sys2Proof.Machine

/-- Two or more of the stack controls are asserted (43_eval_stack.md R228). -/
def stackConflict (k : StkOp) : Bool :=
  match k with
  | .conflict _ => true
  | .hold | .wv | .wc | .dec | .clr => false

/-- The first check of R322 that holds. Checks 5 to 7 are the spec's `raise Fault(UnwrittenRead)` (R172, R280, R194):
R351 gives such a read "one fault outcome instead of a value", and R380 leaves its word no value a rule may use. The range of every access (20_memory.md R67) has no place in that
list; it stands last, and no cycle of full-depth memories fails it (log entry 13). -/
def firstFault (f : InstrFields) (c : Ctl) (inp : CycleIn) (s : State) : Option Fault :=
  let rb := readBank s
  if stackConflict c.k then some (.stackControlConflict s)
  else if (c.k == .wv || c.k == .wc) && s.sp == 0x7FFF then some (.stackOverflow s)
  else if (c.k == .dec && s.sp == 0) || (c.k == .clr && decide (s.sp.toNat < inp.nLocals.toNat)) then
    some (.stackUnderflow s)
  else if (c.g == .we || c.g == .weSw) && s.awrites == 8 then some (.argOverflow s)
  else if dvUsed c && c.d == .arg && !argWritten s rb f.argindex then some (.unwrittenRead s)
  else if c.r == .ldAlu && ((readsA c.a && !argWritten s rb 0) || (readsB c.a && !argWritten s rb 1)) then
    some (.unwrittenRead s)
  else if c.x == .cont && stkTag s s.sp == .unwritten then some (.unwrittenRead s)
  else if c.x == .cont && stkTag s s.sp == .value && s.cfg.strictContTag then some (.contTagMismatch s)
  else if !accessesInRange s inp then some (.outOfRange s)
  else none

/-- `sp` at the end of the cycle (43_eval_stack.md R227). -/
def nextSp (k : StkOp) (inp : CycleIn) (s : State) : SAddr :=
  match k with
  | .wv | .wc => s.sp + 1
  | .dec => s.sp - 1
  | .clr => s.sp - inp.nLocals.setWidth 15
  | .hold | .conflict _ => s.sp

/-- `STK` and `STK_TAG` at the end of the cycle (R221, R222); `dv` and `cw` are the words of the cycle. -/
def nextStk (k : StkOp) (dv cw : Word) (s : State) : List (Nat × StkCell) :=
  match k with
  | .wv => stkWrite s.stk (s.sp + 1) dv .value
  | .wc => stkWrite s.stk (s.sp + 1) cw .cont
  | .hold | .dec | .clr | .conflict _ => s.stk

/-- Bank `b` at the end of the cycle: the write goes to the write bank before a flip, at the counter
before its reset (44_arg_bank.md R252, R255). -/
def nextBank (b : Bool) (g : ArgOp) (dv : Word) (s : State) : Bank :=
  match g with
  | .we | .weSw => if writeBank s = b then bankWrite (bank s b) s.acount dv else bank s b
  | .hold | .sw => bank s b

/-- `bstate` at the end of the cycle (R254). -/
def nextBstate (g : ArgOp) (s : State) : Bool :=
  match g with
  | .sw | .weSw => !s.bstate
  | .hold | .we => s.bstate

/-- `acount` at the end of the cycle: the reset of a flip wins (R253-R255). -/
def nextAcount (g : ArgOp) (s : State) : BitVec 3 :=
  match g with
  | .sw | .weSw => 0
  | .we => s.acount + 1
  | .hold => s.acount

/-- The shadow `awrites` at the end of the cycle (R253, R254). -/
def nextAwrites (g : ArgOp) (s : State) : Nat :=
  match g with
  | .sw | .weSw => 0
  | .we => s.awrites + 1
  | .hold => s.awrites

/-- `ret` at the end of the cycle (45_alu_return.md R296, R297). -/
def nextRet (r : RetOp) (dv alu : Word) (s : State) : Word :=
  match r with
  | .ldDv => dv
  | .ldAlu => alu
  | .hold _ => s.ret

/-- The commit (R323): every unit at once, each from the old state `s`; the cycle's inputs are used up. -/
def commit (f : InstrFields) (e : InfoFields) (k : ContFields) (c : Ctl) (inp : CycleIn) (s : State) : State :=
  let dv := dataValue c.d f inp s
  let alu := aluOut s.cfg.cmpSigned c.a (opA s) (opB s)
  { s with
    exptr := nextExptr c.x f e s
    sp := nextSp c.k inp s
    stk := nextStk c.k dv (encodeCont k) s
    bank0 := nextBank false c.g dv s
    bank1 := nextBank true c.g dv s
    bstate := nextBstate c.g s
    acount := nextAcount c.g s
    awrites := nextAwrites c.g s
    ret := nextRet c.r dv alu s
    stim := s.stim.tail }

/-- One cycle: the decoded instruction word `f`, the decoded info-table word `e`, the continuation
record `k`, the controls `c` and the inputs `inp` (R322, R323). -/
def cycle (f : InstrFields) (e : InfoFields) (k : ContFields) (c : Ctl) (inp : CycleIn) (s : State) :
    Host.Outcome State Fault Refusal :=
  match firstFault f c inp s with
  | some fault => .fault fault
  | none => .next (commit f e k c inp s)

/-- The decoded instruction word of the current cycle (40_field_decoder.md R140, 42_exptr_fetch.md R196). -/
def fetchFields (s : State) : InstrFields := decodeInstr (fetchWord s)

/-- The decoded info-table word of the current cycle (40_field_decoder.md R155). -/
def infoFields (s : State) (inp : CycleIn) : InfoFields := decodeInfo (infoWord s inp)

/-- The control inputs of the current cycle (30_encoding.md R114). -/
def ctlOf (s : State) (inp : CycleIn) : Ctl := Ctl.ofWord s.cfg.aluOpMap inp.cv

/-- The cycle whose control inputs are `c`, with the data inputs the host supplies: the shared
operation of every instruction of format CTRL22 (log entry 2). -/
def runCtl (c : Ctl) (s : State) : Host.Outcome State Fault Refusal :=
  match s.stim with
  | [] => .refused .noCycle
  | inp :: _ => cycle (fetchFields s) (infoFields s inp) (contNow s inp) c inp s

end Sys2Proof.Machine
end

