-- ==== Sys2Proof/Machine/Alu.lean ====
section
/-! DEFINITION. The meanings of the ALU rows (45_alu_return.md R281-R294): the ALU output of the cycle. -/

namespace Sys2Proof.Machine

/-- `ALU.AND` (R281): the ALU computes `A & B`. -/
def execAluAnd (x : XOp) (d : DOp) (g : ArgOp) (r : RetOp) (k : StkOp) (s : State) :
    Host.Outcome State Fault Refusal :=
  runCtl ⟨x, d, .fn .and, g, r, k⟩ s

/-- `ALU.OR` (R282): the ALU computes `A | B`. -/
def execAluOr (x : XOp) (d : DOp) (g : ArgOp) (r : RetOp) (k : StkOp) (s : State) :
    Host.Outcome State Fault Refusal :=
  runCtl ⟨x, d, .fn .or, g, r, k⟩ s

/-- `ALU.NOT` (R283): the ALU computes `~A` and reads A only. -/
def execAluNot (x : XOp) (d : DOp) (g : ArgOp) (r : RetOp) (k : StkOp) (s : State) :
    Host.Outcome State Fault Refusal :=
  runCtl ⟨x, d, .fn .not, g, r, k⟩ s

/-- `ALU.XOR` (R284): the ALU computes `A ^ B`. -/
def execAluXor (x : XOp) (d : DOp) (g : ArgOp) (r : RetOp) (k : StkOp) (s : State) :
    Host.Outcome State Fault Refusal :=
  runCtl ⟨x, d, .fn .xor, g, r, k⟩ s

/-- `ALU.ADD` (R285): the ALU computes `(A + B) mod 2^32`. -/
def execAluAdd (x : XOp) (d : DOp) (g : ArgOp) (r : RetOp) (k : StkOp) (s : State) :
    Host.Outcome State Fault Refusal :=
  runCtl ⟨x, d, .fn .add, g, r, k⟩ s

/-- `ALU.SUB` (R286): the ALU computes `(A − B) mod 2^32`. -/
def execAluSub (x : XOp) (d : DOp) (g : ArgOp) (r : RetOp) (k : StkOp) (s : State) :
    Host.Outcome State Fault Refusal :=
  runCtl ⟨x, d, .fn .sub, g, r, k⟩ s

/-- `ALU.EQ` (R287): the ALU computes `zext_32(A = B)`. -/
def execAluEq (x : XOp) (d : DOp) (g : ArgOp) (r : RetOp) (k : StkOp) (s : State) :
    Host.Outcome State Fault Refusal :=
  runCtl ⟨x, d, .fn .eq, g, r, k⟩ s

/-- `ALU.NE` (R288): the ALU computes `zext_32(A ≠ B)`. -/
def execAluNe (x : XOp) (d : DOp) (g : ArgOp) (r : RetOp) (k : StkOp) (s : State) :
    Host.Outcome State Fault Refusal :=
  runCtl ⟨x, d, .fn .ne, g, r, k⟩ s

/-- `ALU.LT` (R289): the ALU computes `zext_32(A < B)`. -/
def execAluLt (x : XOp) (d : DOp) (g : ArgOp) (r : RetOp) (k : StkOp) (s : State) :
    Host.Outcome State Fault Refusal :=
  runCtl ⟨x, d, .fn .lt, g, r, k⟩ s

/-- `ALU.LE` (R290): the ALU computes `zext_32(A ≤ B)`. -/
def execAluLe (x : XOp) (d : DOp) (g : ArgOp) (r : RetOp) (k : StkOp) (s : State) :
    Host.Outcome State Fault Refusal :=
  runCtl ⟨x, d, .fn .le, g, r, k⟩ s

/-- `ALU.GT` (R291): the ALU computes `zext_32(A > B)`. -/
def execAluGt (x : XOp) (d : DOp) (g : ArgOp) (r : RetOp) (k : StkOp) (s : State) :
    Host.Outcome State Fault Refusal :=
  runCtl ⟨x, d, .fn .gt, g, r, k⟩ s

/-- `ALU.GE` (R292): the ALU computes `zext_32(A ≥ B)`. -/
def execAluGe (x : XOp) (d : DOp) (g : ArgOp) (r : RetOp) (k : StkOp) (s : State) :
    Host.Outcome State Fault Refusal :=
  runCtl ⟨x, d, .fn .ge, g, r, k⟩ s

/-- `ALU.RSV_0C_0F` (R293): codes 0x0C-0x0F: result 0, no operand read. -/
def execAluRsv0C0F (lo : BitVec 2) (x : XOp) (d : DOp) (g : ArgOp) (r : RetOp) (k : StkOp) (s : State) :
    Host.Outcome State Fault Refusal :=
  runCtl ⟨x, d, .rsv0C0F lo, g, r, k⟩ s

/-- `ALU.RSV_10_1F` (R294): codes 0x10-0x1F: result 0, no operand read. -/
def execAluRsv101F (lo : BitVec 4) (x : XOp) (d : DOp) (g : ArgOp) (r : RetOp) (k : StkOp) (s : State) :
    Host.Outcome State Fault Refusal :=
  runCtl ⟨x, d, .rsv101F lo, g, r, k⟩ s

/-- `ALU.RSV_20_3F` (R294): codes 0x20-0x3F: result 0, no operand read. -/
def execAluRsv203F (lo : BitVec 5) (x : XOp) (d : DOp) (g : ArgOp) (r : RetOp) (k : StkOp) (s : State) :
    Host.Outcome State Fault Refusal :=
  runCtl ⟨x, d, .rsv203F lo, g, r, k⟩ s

/-- `ALU.RSV_40_7F` (R294): codes 0x40-0x7F: result 0, no operand read. -/
def execAluRsv407F (lo : BitVec 6) (x : XOp) (d : DOp) (g : ArgOp) (r : RetOp) (k : StkOp) (s : State) :
    Host.Outcome State Fault Refusal :=
  runCtl ⟨x, d, .rsv407F lo, g, r, k⟩ s

/-- `ALU.RSV_80_FF` (R294): codes 0x80-0xFF: result 0, no operand read. -/
def execAluRsv80FF (lo : BitVec 7) (x : XOp) (d : DOp) (g : ArgOp) (r : RetOp) (k : StkOp) (s : State) :
    Host.Outcome State Fault Refusal :=
  runCtl ⟨x, d, .rsv80FF lo, g, r, k⟩ s

end Sys2Proof.Machine
end

