-- ==== Sys2Proof/Machine/ArgBank.lean ====
section
/-! DEFINITION. The meanings of the argument-bank rows (44_arg_bank.md R252-R255). -/

namespace Sys2Proof.Machine

/-- `ARG.WE` (R252): `dv` is written to the write bank at `acount`, which counts on. -/
def execArgWe (x : XOp) (d : DOp) (a : AluOp) (r : RetOp) (k : StkOp) (s : State) :
    Host.Outcome State Fault Refusal :=
  runCtl ⟨x, d, a, .we, r, k⟩ s

/-- `ARG.SW` (R254): the bank roles swap and the counter resets. -/
def execArgSw (x : XOp) (d : DOp) (a : AluOp) (r : RetOp) (k : StkOp) (s : State) :
    Host.Outcome State Fault Refusal :=
  runCtl ⟨x, d, a, .sw, r, k⟩ s

/-- `ARG.WE_SW` (R255): `dv` goes to the write bank before the flip; the reset of the counter wins. -/
def execArgWeSw (x : XOp) (d : DOp) (a : AluOp) (r : RetOp) (k : StkOp) (s : State) :
    Host.Outcome State Fault Refusal :=
  runCtl ⟨x, d, a, .weSw, r, k⟩ s

/-- `ARG.HOLD` (R323): neither `arg_we` nor `arg_sw`: the banks, their roles and the counter hold. -/
def execArgHold (x : XOp) (d : DOp) (a : AluOp) (r : RetOp) (k : StkOp) (s : State) :
    Host.Outcome State Fault Refusal :=
  runCtl ⟨x, d, a, .hold, r, k⟩ s

end Sys2Proof.Machine
end

