-- ==== Sys2Proof/Machine/DataSource.lean ====
section
/-! DEFINITION. The meanings of the data-source rows (41_data_source_mux.md R171-R177). -/

namespace Sys2Proof.Machine

/-- `DSRC.LOC` (R171): `dv` is `locals_out`. -/
def execDsrcLoc (x : XOp) (a : AluOp) (g : ArgOp) (r : RetOp) (k : StkOp) (s : State) :
    Host.Outcome State Fault Refusal :=
  runCtl ⟨x, .loc, a, g, r, k⟩ s

/-- `DSRC.ARG` (R172): `dv` is the argument read port; consumed, an unwritten slot is `UnwrittenRead`. -/
def execDsrcArg (x : XOp) (a : AluOp) (g : ArgOp) (r : RetOp) (k : StkOp) (s : State) :
    Host.Outcome State Fault Refusal :=
  runCtl ⟨x, .arg, a, g, r, k⟩ s

/-- `DSRC.HEAP` (R173): `dv` is `heap_out`. -/
def execDsrcHeap (x : XOp) (a : AluOp) (g : ArgOp) (r : RetOp) (k : StkOp) (s : State) :
    Host.Outcome State Fault Refusal :=
  runCtl ⟨x, .heap, a, g, r, k⟩ s

/-- `DSRC.IMM` (R174): `dv` is `zext_32(imm)`. -/
def execDsrcImm (x : XOp) (a : AluOp) (g : ArgOp) (r : RetOp) (k : StkOp) (s : State) :
    Host.Outcome State Fault Refusal :=
  runCtl ⟨x, .imm, a, g, r, k⟩ s

/-- `DSRC.RET` (R175): `dv` is the committed `ret`. -/
def execDsrcRet (x : XOp) (a : AluOp) (g : ArgOp) (r : RetOp) (k : StkOp) (s : State) :
    Host.Outcome State Fault Refusal :=
  runCtl ⟨x, .ret, a, g, r, k⟩ s

/-- `DSRC.NID` (R176): `dv` is `zext_32(new_id)`. -/
def execDsrcNid (x : XOp) (a : AluOp) (g : ArgOp) (r : RetOp) (k : StkOp) (s : State) :
    Host.Outcome State Fault Refusal :=
  runCtl ⟨x, .nid, a, g, r, k⟩ s

/-- `DSRC.RSV_6_7` (R177): codes 6 and 7: `dv` is 0. -/
def execDsrcRsv67 (b : BitVec 1) (x : XOp) (a : AluOp) (g : ArgOp) (r : RetOp) (k : StkOp) (s : State) :
    Host.Outcome State Fault Refusal :=
  runCtl ⟨x, .rsv b, a, g, r, k⟩ s

end Sys2Proof.Machine
end

