-- ==== Sys2Proof/Machine/ExPtr.lean ====
section
/-! DEFINITION. The meanings of the execution-pointer rows (42_exptr_fetch.md R190-R194). -/

namespace Sys2Proof.Machine

/-- `X.HOLD` (R190): `xload` = 0: `exptr` holds, whatever `xsrc` is. -/
def execXHold (xsrc : BitVec 2) (d : DOp) (a : AluOp) (g : ArgOp) (r : RetOp) (k : StkOp) (s : State) :
    Host.Outcome State Fault Refusal :=
  runCtl ⟨.hold xsrc, d, a, g, r, k⟩ s

/-- `X.INC` (R191): `exptr` becomes `exptr + 1`, modulo 2^15. -/
def execXInc (d : DOp) (a : AluOp) (g : ArgOp) (r : RetOp) (k : StkOp) (s : State) :
    Host.Outcome State Fault Refusal :=
  runCtl ⟨.inc, d, a, g, r, k⟩ s

/-- `X.LIT` (R192): `exptr` becomes `zext_15(nInstrs)`. -/
def execXLit (d : DOp) (a : AluOp) (g : ArgOp) (r : RetOp) (k : StkOp) (s : State) :
    Host.Outcome State Fault Refusal :=
  runCtl ⟨.lit, d, a, g, r, k⟩ s

/-- `X.ITAB` (R193): `exptr` becomes `entryCode` of the info-table word. -/
def execXItab (d : DOp) (a : AluOp) (g : ArgOp) (r : RetOp) (k : StkOp) (s : State) :
    Host.Outcome State Fault Refusal :=
  runCtl ⟨.itab, d, a, g, r, k⟩ s

/-- `X.CONT` (R194): `exptr` becomes `c_exptr` of the top of stack; nothing is popped. -/
def execXCont (d : DOp) (a : AluOp) (g : ArgOp) (r : RetOp) (k : StkOp) (s : State) :
    Host.Outcome State Fault Refusal :=
  runCtl ⟨.cont, d, a, g, r, k⟩ s

end Sys2Proof.Machine
end

