-- ==== Sys2Proof/Machine/Idle.lean ====
section
/-! DEFINITION. The meaning of the row `IDLE` (46_cycle_step.md R327). -/

namespace Sys2Proof.Machine

/-- `IDLE` (R327): every single-bit signal is 0, whatever the three selectors are; no state changes. -/
def execIdle (xsrc : BitVec 2) (d : DOp) (a : AluOp) (s : State) :
    Host.Outcome State Fault Refusal :=
  runCtl ⟨.hold xsrc, d, a, .hold, .hold false, .hold⟩ s

end Sys2Proof.Machine
end

