-- ==== Sys2Proof/Machine/ReturnReg.lean ====
section
/-! DEFINITION. The meanings of the return-register rows (45_alu_return.md R296, R297). -/

namespace Sys2Proof.Machine

/-- `RET.LD_DV` (R296): `ret` becomes `dv`. -/
def execRetLdDv (x : XOp) (d : DOp) (a : AluOp) (g : ArgOp) (k : StkOp) (s : State) :
    Host.Outcome State Fault Refusal :=
  runCtl ⟨x, d, a, g, .ldDv, k⟩ s

/-- `RET.LD_ALU` (R296): `ret` becomes the ALU output. -/
def execRetLdAlu (x : XOp) (d : DOp) (a : AluOp) (g : ArgOp) (k : StkOp) (s : State) :
    Host.Outcome State Fault Refusal :=
  runCtl ⟨x, d, a, g, .ldAlu, k⟩ s

/-- `RET.HOLD` (R297): `ret_ld` = 0: `ret` holds, whatever `alu2ret` is. -/
def execRetHold (alu2ret : Bool) (x : XOp) (d : DOp) (a : AluOp) (g : ArgOp) (k : StkOp) (s : State) :
    Host.Outcome State Fault Refusal :=
  runCtl ⟨x, d, a, g, .hold alu2ret, k⟩ s

end Sys2Proof.Machine
end

