-- ==== Sys2Proof/Machine/Stack.lean ====
section
/-! DEFINITION. The meanings of the stack rows (43_eval_stack.md R221-R226). -/

namespace Sys2Proof.Machine

/-- `STK.HOLD` (R226): no stack control: `sp` and the stack hold. -/
def execStkHold (x : XOp) (d : DOp) (a : AluOp) (g : ArgOp) (r : RetOp) (s : State) :
    Host.Outcome State Fault Refusal :=
  runCtl ⟨x, d, a, g, r, .hold⟩ s

/-- `STK.WV` (R221): `dv` is pushed as a value. -/
def execStkWv (x : XOp) (d : DOp) (a : AluOp) (g : ArgOp) (r : RetOp) (s : State) :
    Host.Outcome State Fault Refusal :=
  runCtl ⟨x, d, a, g, r, .wv⟩ s

/-- `STK.WC` (R222): the continuation record is pushed. -/
def execStkWc (x : XOp) (d : DOp) (a : AluOp) (g : ArgOp) (r : RetOp) (s : State) :
    Host.Outcome State Fault Refusal :=
  runCtl ⟨x, d, a, g, r, .wc⟩ s

/-- `STK.DEC` (R224): `sp` goes down by one. -/
def execStkDec (x : XOp) (d : DOp) (a : AluOp) (g : ArgOp) (r : RetOp) (s : State) :
    Host.Outcome State Fault Refusal :=
  runCtl ⟨x, d, a, g, r, .dec⟩ s

/-- `STK.CLR` (R225): `sp` goes down by `n_locals`. -/
def execStkClr (x : XOp) (d : DOp) (a : AluOp) (g : ArgOp) (r : RetOp) (s : State) :
    Host.Outcome State Fault Refusal :=
  runCtl ⟨x, d, a, g, r, .clr⟩ s

end Sys2Proof.Machine
end

