-- ==== Sys2Proof/Machine/Words.lean ====
section
/-! DEFINITION. The meanings of the three rows of 32 bits: the current cycle, with this word in its place
(log entry 3). -/

namespace Sys2Proof.Machine

/-- `INSTR` (40_field_decoder.md R140): the cycle whose fetched instruction word has the fields `f`; its
`argindex`, `nInstrs` and `imm` reach the units that use them (R157). -/
def execInstr (f : InstrFields) (s : State) : Host.Outcome State Fault Refusal :=
  match s.stim with
  | [] => .refused .noCycle
  | inp :: _ => cycle f (infoFields s inp) (contNow s inp) (ctlOf s inp) inp s

/-- `INFO` (R151-R155): the cycle whose info-table word has the fields `e`; its `entryCode` reaches the
execution pointer (R157). -/
def execInfo (e : InfoFields) (s : State) : Host.Outcome State Fault Refusal :=
  match s.stim with
  | [] => .refused .noCycle
  | inp :: _ => cycle (fetchFields s) e (contNow s inp) (ctlOf s inp) inp s

/-- `CONT` (43_eval_stack.md R223): the cycle whose continuation record under construction is `k`; a
cycle with `s_wc` pushes it (R222). -/
def execCont (k : ContFields) (s : State) : Host.Outcome State Fault Refusal :=
  match s.stim with
  | [] => .refused .noCycle
  | inp :: _ => cycle (fetchFields s) (infoFields s inp) k (ctlOf s inp) inp s

end Sys2Proof.Machine
end

