-- ==== Sys2Proof/Machine/Dispatch.lean ====
section
/-! DEFINITION. One arm per row of spec/opcode_table.json. -/

namespace Sys2Proof.Machine

def exec (i : Instr) (s : State) : Host.Outcome State Fault Refusal :=
  match i with
  | .instr f => Sys2Proof.Machine.execInstr f s
  | .info e => Sys2Proof.Machine.execInfo e s
  | .cont c => Sys2Proof.Machine.execCont c s
  | .aluAnd x d g r k => Sys2Proof.Machine.execAluAnd x d g r k s
  | .aluOr x d g r k => Sys2Proof.Machine.execAluOr x d g r k s
  | .aluNot x d g r k => Sys2Proof.Machine.execAluNot x d g r k s
  | .aluXor x d g r k => Sys2Proof.Machine.execAluXor x d g r k s
  | .aluAdd x d g r k => Sys2Proof.Machine.execAluAdd x d g r k s
  | .aluSub x d g r k => Sys2Proof.Machine.execAluSub x d g r k s
  | .aluEq x d g r k => Sys2Proof.Machine.execAluEq x d g r k s
  | .aluNe x d g r k => Sys2Proof.Machine.execAluNe x d g r k s
  | .aluLt x d g r k => Sys2Proof.Machine.execAluLt x d g r k s
  | .aluLe x d g r k => Sys2Proof.Machine.execAluLe x d g r k s
  | .aluGt x d g r k => Sys2Proof.Machine.execAluGt x d g r k s
  | .aluGe x d g r k => Sys2Proof.Machine.execAluGe x d g r k s
  | .aluRsv0C0F lo x d g r k => Sys2Proof.Machine.execAluRsv0C0F lo x d g r k s
  | .aluRsv101F lo x d g r k => Sys2Proof.Machine.execAluRsv101F lo x d g r k s
  | .aluRsv203F lo x d g r k => Sys2Proof.Machine.execAluRsv203F lo x d g r k s
  | .aluRsv407F lo x d g r k => Sys2Proof.Machine.execAluRsv407F lo x d g r k s
  | .aluRsv80FF lo x d g r k => Sys2Proof.Machine.execAluRsv80FF lo x d g r k s
  | .dsrcLoc x a g r k => Sys2Proof.Machine.execDsrcLoc x a g r k s
  | .dsrcArg x a g r k => Sys2Proof.Machine.execDsrcArg x a g r k s
  | .dsrcHeap x a g r k => Sys2Proof.Machine.execDsrcHeap x a g r k s
  | .dsrcImm x a g r k => Sys2Proof.Machine.execDsrcImm x a g r k s
  | .dsrcRet x a g r k => Sys2Proof.Machine.execDsrcRet x a g r k s
  | .dsrcNid x a g r k => Sys2Proof.Machine.execDsrcNid x a g r k s
  | .dsrcRsv67 b x a g r k => Sys2Proof.Machine.execDsrcRsv67 b x a g r k s
  | .xHold xsrc d a g r k => Sys2Proof.Machine.execXHold xsrc d a g r k s
  | .xInc d a g r k => Sys2Proof.Machine.execXInc d a g r k s
  | .xLit d a g r k => Sys2Proof.Machine.execXLit d a g r k s
  | .xItab d a g r k => Sys2Proof.Machine.execXItab d a g r k s
  | .xCont d a g r k => Sys2Proof.Machine.execXCont d a g r k s
  | .argWe x d a r k => Sys2Proof.Machine.execArgWe x d a r k s
  | .argSw x d a r k => Sys2Proof.Machine.execArgSw x d a r k s
  | .argWeSw x d a r k => Sys2Proof.Machine.execArgWeSw x d a r k s
  | .argHold x d a r k => Sys2Proof.Machine.execArgHold x d a r k s
  | .retLdDv x d a g k => Sys2Proof.Machine.execRetLdDv x d a g k s
  | .retLdAlu x d a g k => Sys2Proof.Machine.execRetLdAlu x d a g k s
  | .retHold alu2ret x d a g k => Sys2Proof.Machine.execRetHold alu2ret x d a g k s
  | .stkHold x d a g r => Sys2Proof.Machine.execStkHold x d a g r s
  | .stkWv x d a g r => Sys2Proof.Machine.execStkWv x d a g r s
  | .stkWc x d a g r => Sys2Proof.Machine.execStkWc x d a g r s
  | .stkDec x d a g r => Sys2Proof.Machine.execStkDec x d a g r s
  | .stkClr x d a g r => Sys2Proof.Machine.execStkClr x d a g r s
  | .idle xsrc d a => Sys2Proof.Machine.execIdle xsrc d a s

end Sys2Proof.Machine
end

