-- ==== Sys2Proof/Machine/Fetch.lean ====
section
/-! DEFINITION. Where a step takes its instruction from: the control vector of the current cycle's inputs
(46_cycle_step.md R321, R325), and how a word is put there from outside. -/

namespace Sys2Proof.Machine

/-- The instruction of the current cycle: the lead row of the host's control vector; none when the host
supplies no further cycle (R326). -/
def fetchInstruction (s : State) : Option Instr :=
  match s.stim with
  | [] => none
  | inp :: _ => some (decodeControl s.cfg.aluOpMap inp.cv)

/-- A cycle with the control vector `cv` and every data input 0. -/
def CycleIn.ofVector (cv : BitVec 22) : CycleIn :=
  { cv := cv, localsOut := 0, heapOut := 0, newId := 0, curClosure := 0, nLocals := 0 }

/-- `s` with the control vector `cv` in the current cycle; a cycle is supplied if there is none. -/
def withControl (s : State) (cv : BitVec 22) : State :=
  match s.stim with
  | [] => { s with stim := [CycleIn.ofVector cv] }
  | inp :: rest => { s with stim := { inp with cv := cv } :: rest }

/-- `s` with the word `w` at the current `exptr` of `IMEM`; an idle cycle is supplied if there is none. -/
def withInstrWord (s : State) (w : Word) : State :=
  { s with
    imem := Image.load s.imem s.exptr.toNat w
    stim := match s.stim with
      | [] => [CycleIn.ofVector 0]
      | stim => stim }

/-- The word of a table row, placed where the core takes it from (log entry 4): up to 24 bits are a
control vector, more are an instruction word. -/
def placeWord (s : State) (nbits w : Nat) : State :=
  if nbits ≤ 24 then withControl s (BitVec.ofNat 22 w) else withInstrWord s (BitVec.ofNat 32 w)

end Sys2Proof.Machine
end

