-- ==== Sys2Proof/Machine/Step.lean ====
section
/-! DEFINITION. One step: one clock cycle (00_scope.md R7, 46_cycle_step.md R321). -/

namespace Sys2Proof.Machine

/-- One clock cycle: the instruction of the host's control vector, run; no step when the host supplies
no cycle (R326). -/
def step (s : State) : Host.Outcome State Fault Refusal :=
  match fetchInstruction s with
  | none => .refused .noCycle
  | some i => exec i s

/-- `s` with the bits `w` placed where `step` takes its next instruction from (log entry 4). -/
def State.withFetchWord (s : State) (nbits w : Nat) : State := placeWord s nbits w

end Sys2Proof.Machine
end

