-- ==== Sys2Proof/Machine/Boot.lean ====
section
/-! DEFINITION. Before the first cycle: the configuration is validated, the images are loaded, and the machine
stands in its reset state (70_reset_and_hazards.md R382, R383). -/

namespace Sys2Proof.Machine

/-- The preconditions of R10: W_ID at most 24 and W_IT at most 16. Where both fail, the one about W_ID is reported:
the spec gives no order (DESIGN CHOICE, log entry 23). -/
def validate (w : Widths) : Except ConfigError Unit :=
  if 24 < w.wId then .error .idTooWide
  else if 16 < w.wIt then .error .itTooWide
  else .ok ()

/-- The image that holds these words; a later word at one address replaces an earlier one. -/
def loadImage {n : Nat} (words : List (BitVec n × Word)) : List (Nat × Word) :=
  words.foldl (fun m w => Image.load m w.1.toNat w.2) []

/-- The machine before its first cycle, or the configuration error (R353). Widths that meet the
preconditions and are not those of R8 are refused too: the spec describes no other (R11; log entry 18). -/
def boot (w : Widths) (p : Params) (imem : List (IAddr × Word)) (itab : List (TAddr × Word)) :
    Except ConfigError State :=
  match validate w with
  | .error e => .error e
  | .ok _ =>
    if w = Widths.fixed then
      .ok { State.reset with cfg := p, imem := loadImage imem, itab := loadImage itab }
    else .error .notTheFixedWidths

end Sys2Proof.Machine
end

