-- ==== Sys2Proof/Machine/Idioms.lean ====
section
/-! DEFINITION. The named control vectors of 30_encoding.md R118: notation of the spec, each its expansion. -/

namespace Sys2Proof.Machine

/-- Every signal 0 (R115): the controls a listing leaves unwritten. -/
def quiet : Ctl := ⟨.hold 0, .loc, .fn .and, .hold, .hold false, .hold⟩

/-- `NEXT`: `x=INC xl`. -/
def idiomNext : Ctl := { quiet with x := .inc }
/-- `JUMP`: `x=LIT xl`. -/
def idiomJump : Ctl := { quiet with x := .lit }
/-- `ENTER`: `x=ITAB xl`. -/
def idiomEnter : Ctl := { quiet with x := .itab }
/-- `PUSHV d=<src>`: `swv d=<src>`. -/
def idiomPushV (d : DOp) : Ctl := { quiet with k := .wv, d := d }
/-- `PUSHK`: `swc`. -/
def idiomPushK : Ctl := { quiet with k := .wc }
/-- `POP`: `sdec`. -/
def idiomPop : Ctl := { quiet with k := .dec }
/-- `RETURN`: `x=CONT xl sdec`. -/
def idiomReturn : Ctl := { quiet with x := .cont, k := .dec }
/-- `ARG d=<src>`: `awe d=<src>`. -/
def idiomArg (d : DOp) : Ctl := { quiet with g := .we, d := d }
/-- `CALLSW`: `asw`. -/
def idiomCallSw : Ctl := { quiet with g := .sw }
/-- `LDRET d=<src>`: `rl d=<src>`. -/
def idiomLdRet (d : DOp) : Ctl := { quiet with r := .ldDv, d := d }
/-- `OP <mnemonic>`: `rl a2r alu=<mnemonic>`. -/
def idiomOp (f : AluFn) : Ctl := { quiet with r := .ldAlu, a := .fn f }

end Sys2Proof.Machine
end

