-- ==== Sys2Proof/Machine/Outputs.lean ====
section
/-! DEFINITION. The outputs of the core (46_cycle_step.md R324): the registers, and the combinational values of
a state and the inputs of the coming cycle. They are no state (10_state.md R41). -/

namespace Sys2Proof.Machine

/-- The outputs of R324 that are registers and ports. The shadow state is none of them, and the memories `STK` and
`ARG`, which R324 lets an observation function show in full, are observed slot by slot by `observeStack` and
`observeArgument` (DESIGN CHOICE, log entry 22). -/
structure Outputs where
  exptr : IAddr
  sp : SAddr
  bstate : Bool
  acount : BitVec 3
  ret : Word
  /-- the fetched instruction word -/
  instr : Word
  /-- every field of the instruction word, `opcode` among them -/
  fields : InstrFields
  /-- every field of the info-table word -/
  info : InfoFields
  /-- the word on the top-of-stack port -/
  tos : Word
  /-- the argument read port -/
  ard : Word
  /-- the ALU operand A -/
  opA : Word
  /-- the ALU operand B -/
  opB : Word
  /-- the data value -/
  dv : Word
  /-- the ALU output -/
  alu : Word
  deriving DecidableEq, Repr

/-- The outputs with the registers of `s` and the inputs `inp`. -/
def outputs (s : State) (inp : CycleIn) : Outputs where
  exptr := s.exptr
  sp := s.sp
  bstate := s.bstate
  acount := s.acount
  ret := s.ret
  instr := fetchWord s
  fields := fetchFields s
  info := infoFields s inp
  tos := tos s
  ard := argPort s (fetchFields s)
  opA := opA s
  opB := opB s
  dv := dataValue (ctlOf s inp).d (fetchFields s) inp s
  alu := aluOut s.cfg.cmpSigned (ctlOf s inp).a (opA s) (opB s)

/-- The observation of `STK[a]` (R324, decision D36): the word, without its tag; an unwritten slot shows its free
value (log entry 8). -/
def observeStack (s : State) (a : SAddr) : Word := stkRead s a

/-- The observation of `ARG[b][i]` (R324, decision D36): the word, without its flag; an unwritten slot shows its
free value (log entry 9). -/
def observeArgument (s : State) (b : Bool) (i : BitVec 3) : Word := argRead s b i

/-- What is sampled after a commit: the outputs of the new state under the next cycle's inputs. With no next cycle
the combinational values have no inputs, and nothing is sampled (DESIGN CHOICE, log entry 22). -/
def sample (s : State) : Option Outputs :=
  match s.stim with
  | [] => none
  | inp :: _ => some (outputs s inp)

end Sys2Proof.Machine
end

