-- ==== Sys2Proof/Safety.lean ====
section
/-! DEFINITION. What counts as a safe cycle, what a cycle leaves unchanged, and the invariants, in the terms the
obligations use. -/

namespace Sys2Proof

open Sys2Proof.Machine

/-- None of the checks of 46_cycle_step.md R322 holds: the duties of the host (R325). -/
structure CycleOk (f : InstrFields) (c : Ctl) (inp : CycleIn) (s : State) : Prop where
  oneStackControl : ∀ b, c.k ≠ .conflict b
  noOverflow : c.k = .wv ∨ c.k = .wc → s.sp ≠ 0x7FFF
  noUnderflowDec : c.k = .dec → s.sp ≠ 0
  noUnderflowClr : c.k = .clr → inp.nLocals.toNat ≤ s.sp.toNat
  noArgOverflow : c.g = .we ∨ c.g = .weSw → s.awrites ≠ 8
  argumentWritten : c.d = .arg → c.k = .wv ∨ c.g = .we ∨ c.g = .weSw ∨ c.r = .ldDv →
    argWritten s (!s.bstate) f.argindex = true
  operandAWritten : c.r = .ldAlu → readsA c.a = true → argWritten s (!s.bstate) 0 = true
  operandBWritten : c.r = .ldAlu → readsB c.a = true → argWritten s (!s.bstate) 1 = true
  topWritten : c.x = .cont → stkTag s s.sp ≠ .unwritten
  topCont : c.x = .cont → s.cfg.strictContTag = true → stkTag s s.sp ≠ .value

/-- The word in slot `i` of the read bank, `ARG[¬bstate][i]` (44_arg_bank.md R250, R251, R257). -/
def boundArg (s : State) (i : BitVec 3) : Word :=
  ((if s.bstate then s.bank0 else s.bank1)[i.toNat]'i.isLt).val

/-- The value `v` reached every consumer of the data value that is asserted (41_data_source_mux.md R178,
R179): the stack, the argument bank, the return register. -/
structure Delivered (v : Word) (g : ArgOp) (r : RetOp) (k : StkOp) (s t : State) : Prop where
  pushed : k = .wv → stkRead t (s.sp + 1) = v ∧ stkTag t (s.sp + 1) = .value
  argument : g = .we ∨ g = .weSw →
    argRead t s.bstate s.acount = v ∧ argWritten t s.bstate s.acount = true
  loaded : r = .ldDv → t.ret = v

/-- What a cycle with controls `c` leaves unchanged from `s` to `t` (R323: a state element not named
keeps its value). -/
structure Frame (c : Ctl) (s t : State) : Prop where
  imem : t.imem = s.imem
  itab : t.itab = s.itab
  cfg : t.cfg = s.cfg
  stim : t.stim = s.stim.tail
  exptr : ∀ xsrc, c.x = .hold xsrc → t.exptr = s.exptr
  sp : c.k = .hold → t.sp = s.sp
  stack : ∀ a : SAddr, (c.k = .wv ∨ c.k = .wc → a ≠ s.sp + 1) →
    stkRead t a = stkRead s a ∧ stkTag t a = stkTag s a
  args : ∀ b i, (c.g = .we ∨ c.g = .weSw → ¬ (b = s.bstate ∧ i = s.acount)) →
    argRead t b i = argRead s b i ∧ argWritten t b i = argWritten s b i
  bstate : c.g = .hold ∨ c.g = .we → t.bstate = s.bstate
  acount : c.g = .hold → t.acount = s.acount ∧ t.awrites = s.awrites
  ret : ∀ b, c.r = .hold b → t.ret = s.ret

/-- The argument counter counts the writes since the flip modulo 8, at most 8 of them, and they filled
the write bank from slot 0 upward (44_arg_bank.md R252-R256). -/
structure ArgInv (s : State) : Prop where
  bounded : s.awrites ≤ 8
  counter : s.acount = BitVec.ofNat 3 s.awrites
  assembled : ∀ i : BitVec 3, i.toNat < s.awrites → argWritten s s.bstate i = true

/-- Slot 0 is never written, every slot from 1 to `sp` is, and a continuation has bits 31-29 zero
(10_state.md R32, 20_memory.md R63). -/
structure StackInv (s : State) : Prop where
  slotZero : stkTag s 0 = .unwritten
  pushed : ∀ a : SAddr, a ≠ 0 → a.toNat ≤ s.sp.toNat → stkTag s a ≠ .unwritten
  record : ∀ a : SAddr, stkTag s a = .cont → (stkRead s a).toNat < 2 ^ 29

/-- `s` and `t` agree on everything the hardware has, and may differ in the shadow state alone: the tags
of written stack slots, the written flags, and `awrites` (10_state.md R43). -/
structure SameHardware (s t : State) : Prop where
  exptr : s.exptr = t.exptr
  sp : s.sp = t.sp
  stk : ∀ a, (Memory.lookup s.stk a).map StkCell.word = (Memory.lookup t.stk a).map StkCell.word
  args : ∀ b (i : BitVec 3), ((bank s b)[i.toNat]'i.isLt).val = ((bank t b)[i.toNat]'i.isLt).val
  bstate : s.bstate = t.bstate
  acount : s.acount = t.acount
  ret : s.ret = t.ret
  imem : s.imem = t.imem
  itab : s.itab = t.itab
  cfg : s.cfg = t.cfg
  stim : s.stim = t.stim

/-- The code of a fault (60_exceptions.md R351). -/
def faultCode : Fault → Nat
  | .stackControlConflict _ => 1
  | .stackOverflow _ => 2
  | .stackUnderflow _ => 3
  | .argOverflow _ => 4
  | .unwrittenRead _ => 5
  | .contTagMismatch _ => 6
  | .outOfRange _ => 7

/-- The state a fault records (R351). -/
def faultState : Fault → State
  | .stackControlConflict s | .stackOverflow s | .stackUnderflow s | .argOverflow s
  | .unwrittenRead s | .contTagMismatch s | .outOfRange s => s

end Sys2Proof
end

