-- ==== Sys2Proof/Certificates/Slice0/Obligations.lean ====
section
/-! DEFINITION. The statements for the provers. A statement about a row quantifies over every control of the other
units, so that it covers every form of the row. -/

open Sys2Proof Sys2Proof.Machine

/-! ### Encoding and decoding -/

/-- R140: every view of an instruction word, and every field of an info-table word, is
its range of bits. -/
def Obligations.FieldDecoderReadsEveryField : Prop :=
  ∀ w : Word,
    (decodeInstr w).opcode.toNat = w.toNat / 2 ^ 27 ∧
    (decodeInstr w).dsrc.toNat = w.toNat / 2 ^ 24 % 2 ^ 3 ∧
    (decodeInstr w).name.toNat = w.toNat % 2 ^ 10 ∧
    (decodeInstr w).argindex.toNat = w.toNat % 2 ^ 3 ∧
    (decodeInstr w).freevarindex.toNat = w.toNat % 2 ^ 8 ∧
    (decodeInstr w).litpattern.toNat = w.toNat / 2 ^ 8 % 2 ^ 16 ∧
    (decodeInstr w).conitable.toNat = w.toNat / 2 ^ 8 % 2 ^ 10 ∧
    (decodeInstr w).nInstrs.toNat = w.toNat % 2 ^ 8 ∧
    (decodeInstr w).imm.toNat = w.toNat % 2 ^ 24 ∧
    (decodeInfo w).entryCode.toNat = w.toNat % 2 ^ 15 ∧
    (decodeInfo w).nvars.toNat = w.toNat / 2 ^ 15 % 2 ^ 7 ∧
    (decodeInfo w).nptrs.toNat = w.toNat / 2 ^ 22 % 2 ^ 7 ∧
    (decodeInfo w).arity.toNat = w.toNat / 2 ^ 29

/-- 30_encoding.md section 1: a well-formed instruction word is read back from its bits with every field, and
every 32-bit word is the encoding of the instruction it decodes to. -/
def Obligations.InstructionWordRoundTrip : Prop :=
  ∀ m : AluMap,
    (∀ f : InstrFields, WellFormed (.instr f) = true →
      decodeAs m .instr32 (encode m (.instr f)) = .ok (.instr f)) ∧
    (∀ w < 2 ^ 32, ∃ f, decodeAs m .instr32 w = .ok (.instr f) ∧ WellFormed (.instr f) = true ∧
      encode m (.instr f) = w)

/-- R102: the four fields of an info-table entry tile its word. -/
def Obligations.InfoTableEntryRoundTrip : Prop :=
  ∀ m : AluMap,
    (∀ e : InfoFields,
      encode m (.info e) =
        e.arity.toNat * 2 ^ 29 + e.nptrs.toNat * 2 ^ 22 + e.nvars.toNat * 2 ^ 15 + e.entryCode.toNat ∧
      decodeAs m .info32 (encode m (.info e)) = .ok (.info e)) ∧
    (∀ w < 2 ^ 32, ∃ e, decodeAs m .info32 w = .ok (.info e) ∧ encode m (.info e) = w)

/-- 30_encoding.md section 3 (decisions D2, D3): the layout of a continuation record, its round trip, and the
refusal of a word whose bits 31-29 are not 0. -/
def Obligations.ContinuationRecordLayout : Prop :=
  ∀ m : AluMap,
    (∀ c : ContFields,
      encode m (.cont c) = c.cExptr.toNat * 2 ^ 14 + c.cClosure.toNat * 2 ^ 4 + c.cNlocals.toNat ∧
      decodeAs m .cont32 (encode m (.cont c)) = .ok (.cont c) ∧ contFields (encodeCont c) = c) ∧
    (∀ w < 2 ^ 29, ∃ c, decodeAs m .cont32 w = .ok (.cont c) ∧ encode m (.cont c) = w) ∧
    (∀ w, 2 ^ 29 ≤ w → w < 2 ^ 32 → decodeAs m .cont32 w = .error .contHighBits)

/-- 30_encoding.md sections 5 and 6: under every assignment of the twelve ALU codes, the rows that read a
control vector are exactly the well-formed instructions of format CTRL22 whose encoding it is. -/
def Obligations.ReadingsAreTheInstructionsOfAVector : Prop :=
  ∀ m : AluMap, m.toList.Nodup → ∀ (w : BitVec 22) (i : Instr),
    i ∈ readings m w ↔ i.format = .ctrl22 ∧ WellFormed i = true ∧ encode m i = w.toNat

/-- The row the decoder names for a control vector is one of the rows that read it (log entry 2), and a vector
with a bit above the 22 is refused. -/
def Obligations.DecoderNamesARowOfTheVector : Prop :=
  ∀ m : AluMap,
    (∀ w : BitVec 22, decodeAs m .ctrl22 w.toNat = .ok (decodeControl m w) ∧ decodeControl m w ∈ readings m w) ∧
    (∀ w, 2 ^ 22 ≤ w → decodeAs m .ctrl22 w = .error .controlHighBits)

/-- Words of 95_test_vectors.md and of the code tables of 30_encoding.md, written out: one of each unit. Which of the
rows that read a vector is named, and that 32 bits are named INSTR, is the model's choice (log entries 2 and 15). -/
def Obligations.WrittenOutWordsDecode : Prop :=
  decodeTableWord 32 0x8B123456 = some (.instr ⟨0x11, 3, 0x056, 6, 0x56, 0x1234, 0x234, 0x56, 0x123456⟩) ∧
  decodeAs AluMap.spec .info32 0x40418123 = .ok (.info ⟨2, 1, 3, 0x0123⟩) ∧
  decodeAs AluMap.spec .cont32 0x048D155A = .ok (.cont ⟨0x1234, 0x155, 0xA⟩) ∧
  decodeTableWord 24 0b0000000000000100000000 = some (.aluAdd (.hold 0) .loc .hold (.hold false) .hold) ∧
  decodeTableWord 24 0b0000000000000000011000 = some (.dsrcImm (.hold 0) (.fn .and) .hold (.hold false) .hold) ∧
  decodeTableWord 24 0b0000000000000000000111 = some (.xCont .loc (.fn .and) .hold (.hold false) .hold) ∧
  decodeTableWord 24 0b0000001000000000000000 = some (.argSw (.hold 0) .loc (.fn .and) (.hold false) .hold) ∧
  decodeTableWord 24 0b0000110000000000000000 = some (.retLdAlu (.hold 0) .loc (.fn .and) .hold .hold) ∧
  decodeTableWord 24 0b0100000000000000011100 = some (.stkWv .inc .imm (.fn .and) .hold (.hold false)) ∧
  decodeTableWord 24 0b0000000000000000000000 = some (.idle 0 .loc (.fn .and))

/-- The codes of 30_encoding.md section 5 (decisions D8, D9, D12), with the default assignment: code n below 0x0C
is the n-th operation of the list and reads both operands but for NOT; every other code is reserved and reads
none. -/
def Obligations.AluCodesOfTheTable : Prop :=
  ∀ b : BitVec 8,
    (b.toNat < 12 →
      AluOp.ofBits AluMap.spec b =
        .fn ([AluFn.and, .or, .not, .xor, .add, .sub, .eq, .ne, .lt, .le, .gt, .ge].getD b.toNat .and)) ∧
    (12 ≤ b.toNat → ∀ f, AluOp.ofBits AluMap.spec b ≠ .fn f) ∧
    (readsA (AluOp.ofBits AluMap.spec b) = true ↔ b.toNat < 12) ∧
    (readsB (AluOp.ofBits AluMap.spec b) = true ↔ b.toNat < 12 ∧ b ≠ 0x02)

/-! ### The step, the checks and the outcomes -/

/-- 46_cycle_step.md section 1: a step is the instruction decoded from the host's control vector, and the
instruction fetched at `exptr`; with no cycle supplied there is no step. -/
def Obligations.StepRunsTheDecodedInstruction : Prop :=
  (∀ s : State, s.stim = [] → step s = .refused .noCycle) ∧
  (∀ (s : State) (inp : CycleIn) (rest : List CycleIn), s.stim = inp :: rest →
    step s = exec (decodeControl s.cfg.aluOpMap inp.cv) s ∧
    step s = exec (.instr (decodeInstr (Image.read s.imem s.exptr.toNat))) s)

/-- Whichever row reads a cycle, and whichever of the three words of the cycle is taken, the instruction is the
same cycle (log entries 2 and 3). -/
def Obligations.EveryRowOfACycleIsTheSameCycle : Prop :=
  ∀ (s : State) (inp : CycleIn) (rest : List CycleIn) (i : Instr), s.stim = inp :: rest →
    (i ∈ readings s.cfg.aluOpMap inp.cv ∨
      i = .instr (decodeInstr (Image.read s.imem s.exptr.toNat)) ∨
      i = .info (decodeInfo (Image.read s.itab (inp.heapOut.toNat % 2 ^ 10))) ∨
      i = .cont ⟨s.exptr + s.cfg.contExptrOffset.setWidth 15, inp.curClosure, inp.nLocals⟩) →
    exec i s = step s

/-- 46_cycle_step.md section 4: the core completes a cycle exactly when the host meets its duties. -/
def Obligations.CycleCompletesExactlyWhenSafe : Prop :=
  ∀ (s : State) (inp : CycleIn) (rest : List CycleIn), s.stim = inp :: rest →
    ((∃ t, step s = .next t) ↔ CycleOk (fetchFields s) (ctlOf s inp) inp s)

/-- 46_cycle_step.md section 2 (decision D34): the eight checks, in their order, on the signals of the control
vector; a cycle that passes all of them completes. -/
def Obligations.FirstFailingCheckIsReported : Prop :=
  ∀ (s : State) (inp : CycleIn) (rest : List CycleIn), s.stim = inp :: rest →
    let sig := fun n => inp.cv.getLsbD n
    let sDec := sig 18
    let sClr := sig 19
    let sWv := sig 20
    let sWc := sig 21
    let argWe := sig 14
    let alu2ret := sig 16
    let retLd := sig 17
    let toCont := inp.cv.extractLsb' 0 3 = 7
    let op := AluOp.ofBits s.cfg.aluOpMap (inp.cv.extractLsb' 6 8)
    let index := BitVec.ofNat 3 (fetchWord s).toNat
    if 2 ≤ sDec.toNat + sClr.toNat + sWv.toNat + sWc.toNat then step s = .fault (.stackControlConflict s)
    else if (sWv = true ∨ sWc = true) ∧ s.sp = 0x7FFF then step s = .fault (.stackOverflow s)
    else if (sDec = true ∧ s.sp = 0) ∨ (sClr = true ∧ s.sp.toNat < inp.nLocals.toNat) then
      step s = .fault (.stackUnderflow s)
    else if argWe = true ∧ s.awrites = 8 then step s = .fault (.argOverflow s)
    else if (sWv = true ∨ argWe = true ∨ (retLd = true ∧ alu2ret = false)) ∧ inp.cv.extractLsb' 3 3 = 1 ∧
        argWritten s (!s.bstate) index = false then
      step s = .fault (.unwrittenRead s)
    else if retLd = true ∧ alu2ret = true ∧ ((readsA op = true ∧ argWritten s (!s.bstate) 0 = false) ∨
        (readsB op = true ∧ argWritten s (!s.bstate) 1 = false)) then
      step s = .fault (.unwrittenRead s)
    else if toCont ∧ stkTag s s.sp = .unwritten then step s = .fault (.unwrittenRead s)
    else if toCont ∧ stkTag s s.sp = .value ∧ s.cfg.strictContTag = true then
      step s = .fault (.contTagMismatch s)
    else ∃ t, step s = .next t

/-- 60_exceptions.md section 1 (decision D33) and 20_memory.md section 1 (decision D29): a fault of an instruction
records the state it started from, so nothing has committed, and it is never OutOfRange. -/
def Obligations.FaultRecordsTheStateOfItsCycle : Prop :=
  ∀ (i : Instr) (s : State) (φ : Fault), exec i s = .fault φ → faultState φ = s ∧ faultCode φ ≠ 7

/-- 46_cycle_step.md section 4 (decision D40): the one refusal is the end of the run. -/
def Obligations.OnlyTheEndOfTheRunIsRefused : Prop :=
  ∀ (i : Instr) (s : State) (r : Refusal), exec i s = .refused r ↔ s.stim = [] ∧ r = .noCycle

/-! ### Reset and boot -/

/-- 70_reset_and_hazards.md section 1 (decision D27): the reset state; no slot of the stack or of the banks has
been written. -/
def Obligations.ResetStateValues : Prop :=
  State.reset.exptr = 0 ∧ State.reset.sp = 0 ∧ State.reset.bstate = false ∧ State.reset.acount = 0 ∧
  State.reset.ret = 0 ∧ State.reset.awrites = 0 ∧ (∀ a, stkTag State.reset a = .unwritten) ∧
  (∀ b i, argWritten State.reset b i = false)

/-- 00_scope.md section 4 and log entry 23: the preconditions are checked before any machine exists, and the fixed
configuration passes them. Where both fail, that the error is the one about W_ID is the model's choice (log entry
23). -/
def Obligations.BootValidatesTheConfiguration : Prop :=
  ∀ (w : Widths) (p : Params) (imem : List (IAddr × Word)) (itab : List (TAddr × Word)),
    (24 < w.wId → boot w p imem itab = .error .idTooWide) ∧
    (w.wId ≤ 24 → 16 < w.wIt → boot w p imem itab = .error .itTooWide) ∧
    (∃ s, boot Widths.fixed p imem itab = .ok s ∧
      s = { State.reset with cfg := p, imem := s.imem, itab := s.itab })

/-- 70_reset_and_hazards.md section 2 (decision D28): after boot, each address of the two read-only memories reads
as the last word the image gives it, and else as the word of an unlisted address (log entry 7); the memories are in
canonical form, and the first fetch is at address 0. -/
def Obligations.LoadedImagesReadBack : Prop :=
  ∀ (p : Params) (imem : List (IAddr × Word)) (itab : List (TAddr × Word)) (s : State),
    boot Widths.fixed p imem itab = .ok s →
    (∀ a : IAddr, Image.read s.imem a.toNat =
      ((imem.reverse.find? (fun c => c.1 == a)).map Prod.snd).getD unlistedWord) ∧
    (∀ a : TAddr, Image.read s.itab a.toNat =
      ((itab.reverse.find? (fun c => c.1 == a)).map Prod.snd).getD unlistedWord) ∧
    MemWf s ∧ fetchWord s = Image.read s.imem 0

/-! ### The ALU rows -/

/-- 45_alu_return.md section 2 (decisions D9, D25): AND, OR, NOT, XOR complete in every safe cycle, and a cycle that
loads the return register from the ALU leaves the result there. -/
def Obligations.AluBitwiseResults : Prop :=
  ∀ (x : XOp) (d : DOp) (g : ArgOp) (r : RetOp) (k : StkOp) (s : State) (inp : CycleIn) (rest : List CycleIn),
    s.stim = inp :: rest →
    (CycleOk (fetchFields s) ⟨x, d, .fn .and, g, r, k⟩ inp s →
      ∃ t, exec (.aluAnd x d g r k) s = .next t ∧ (r = .ldAlu → t.ret = boundArg s 0 &&& boundArg s 1)) ∧
    (CycleOk (fetchFields s) ⟨x, d, .fn .or, g, r, k⟩ inp s →
      ∃ t, exec (.aluOr x d g r k) s = .next t ∧ (r = .ldAlu → t.ret = boundArg s 0 ||| boundArg s 1)) ∧
    (CycleOk (fetchFields s) ⟨x, d, .fn .not, g, r, k⟩ inp s →
      ∃ t, exec (.aluNot x d g r k) s = .next t ∧ (r = .ldAlu → t.ret = ~~~ boundArg s 0)) ∧
    (CycleOk (fetchFields s) ⟨x, d, .fn .xor, g, r, k⟩ inp s →
      ∃ t, exec (.aluXor x d g r k) s = .next t ∧ (r = .ldAlu → t.ret = boundArg s 0 ^^^ boundArg s 1))

/-- 45_alu_return.md section 3 (decisions D9, D11): ADD and SUB modulo 2^32. -/
def Obligations.AluArithmeticResults : Prop :=
  ∀ (x : XOp) (d : DOp) (g : ArgOp) (r : RetOp) (k : StkOp) (s : State) (inp : CycleIn) (rest : List CycleIn),
    s.stim = inp :: rest →
    (CycleOk (fetchFields s) ⟨x, d, .fn .add, g, r, k⟩ inp s →
      ∃ t, exec (.aluAdd x d g r k) s = .next t ∧
        (r = .ldAlu → t.ret.toNat = ((boundArg s 0).toNat + (boundArg s 1).toNat) % 2 ^ 32)) ∧
    (CycleOk (fetchFields s) ⟨x, d, .fn .sub, g, r, k⟩ inp s →
      ∃ t, exec (.aluSub x d g r k) s = .next t ∧
        (r = .ldAlu → t.ret.toNat = (2 ^ 32 + (boundArg s 0).toNat - (boundArg s 1).toNat) % 2 ^ 32))

/-- 45_alu_return.md section 4 (decisions D9, D10, D11): the six comparisons deliver 1 or 0; the four ordered ones
compare unsigned numbers, or signed ones when `cmpSigned`. -/
def Obligations.AluComparisonResults : Prop :=
  ∀ (x : XOp) (d : DOp) (g : ArgOp) (r : RetOp) (k : StkOp) (s : State) (inp : CycleIn) (rest : List CycleIn),
    s.stim = inp :: rest →
    let num := fun i => if s.cfg.cmpSigned then (boundArg s i).toInt else ((boundArg s i).toNat : Int)
    (CycleOk (fetchFields s) ⟨x, d, .fn .eq, g, r, k⟩ inp s →
      ∃ t, exec (.aluEq x d g r k) s = .next t ∧
        (r = .ldAlu → t.ret = if boundArg s 0 = boundArg s 1 then 1 else 0)) ∧
    (CycleOk (fetchFields s) ⟨x, d, .fn .ne, g, r, k⟩ inp s →
      ∃ t, exec (.aluNe x d g r k) s = .next t ∧
        (r = .ldAlu → t.ret = if boundArg s 0 = boundArg s 1 then 0 else 1)) ∧
    (CycleOk (fetchFields s) ⟨x, d, .fn .lt, g, r, k⟩ inp s →
      ∃ t, exec (.aluLt x d g r k) s = .next t ∧ (r = .ldAlu → t.ret = if num 0 < num 1 then 1 else 0)) ∧
    (CycleOk (fetchFields s) ⟨x, d, .fn .le, g, r, k⟩ inp s →
      ∃ t, exec (.aluLe x d g r k) s = .next t ∧ (r = .ldAlu → t.ret = if num 0 ≤ num 1 then 1 else 0)) ∧
    (CycleOk (fetchFields s) ⟨x, d, .fn .gt, g, r, k⟩ inp s →
      ∃ t, exec (.aluGt x d g r k) s = .next t ∧ (r = .ldAlu → t.ret = if num 0 > num 1 then 1 else 0)) ∧
    (CycleOk (fetchFields s) ⟨x, d, .fn .ge, g, r, k⟩ inp s →
      ∃ t, exec (.aluGe x d g r k) s = .next t ∧ (r = .ldAlu → t.ret = if num 0 ≥ num 1 then 1 else 0))

/-- R294: codes 0x10-0xFF give 0 and read no operand: loading the return register from one of them completes in
every state, whatever the banks hold. -/
def Obligations.AluReservedGroupsGiveZero : Prop :=
  ∀ (x : XOp) (d : DOp) (g : ArgOp) (r : RetOp) (k : StkOp) (s : State) (inp : CycleIn) (rest : List CycleIn),
    s.stim = inp :: rest →
    (∀ lo, CycleOk (fetchFields s) ⟨x, d, .rsv101F lo, g, r, k⟩ inp s →
      ∃ t, exec (.aluRsv101F lo x d g r k) s = .next t ∧ (r = .ldAlu → t.ret = 0)) ∧
    (∀ lo, CycleOk (fetchFields s) ⟨x, d, .rsv203F lo, g, r, k⟩ inp s →
      ∃ t, exec (.aluRsv203F lo x d g r k) s = .next t ∧ (r = .ldAlu → t.ret = 0)) ∧
    (∀ lo, CycleOk (fetchFields s) ⟨x, d, .rsv407F lo, g, r, k⟩ inp s →
      ∃ t, exec (.aluRsv407F lo x d g r k) s = .next t ∧ (r = .ldAlu → t.ret = 0)) ∧
    (∀ lo, CycleOk (fetchFields s) ⟨x, d, .rsv80FF lo, g, r, k⟩ inp s →
      ∃ t, exec (.aluRsv80FF lo x d g r k) s = .next t ∧ (r = .ldAlu → t.ret = 0)) ∧
    (∀ (xsrc : BitVec 2) (b : BitVec 8), 0x10 ≤ b.toNat →
      CycleOk (fetchFields s) ⟨.hold xsrc, d, AluOp.ofBits s.cfg.aluOpMap b, .hold, .ldAlu, .hold⟩ inp s)

/-- 45_alu_return.md section 5 (decision D12): codes 0x0C-0x0F give 0 and read no operand. -/
def Obligations.AluUnassignedCodesGiveZero : Prop :=
  ∀ (x : XOp) (d : DOp) (g : ArgOp) (r : RetOp) (k : StkOp) (s : State) (inp : CycleIn) (rest : List CycleIn)
    (lo : BitVec 2), s.stim = inp :: rest →
    (CycleOk (fetchFields s) ⟨x, d, .rsv0C0F lo, g, r, k⟩ inp s →
      ∃ t, exec (.aluRsv0C0F lo x d g r k) s = .next t ∧ (r = .ldAlu → t.ret = 0)) ∧
    (∀ xsrc, ∃ t, exec (.aluRsv0C0F lo (.hold xsrc) d .hold .ldAlu .hold) s = .next t ∧ t.ret = 0)

/-! ### The data-source rows -/

/-- 41_data_source_mux.md section 2 (decisions D6, D14, D38): the locals output, the heap output and the
zero-extended new identifier reach every consumer of the data value. -/
def Obligations.DataSourceExternalInputs : Prop :=
  ∀ (x : XOp) (a : AluOp) (g : ArgOp) (r : RetOp) (k : StkOp) (s : State) (inp : CycleIn) (rest : List CycleIn),
    s.stim = inp :: rest →
    (CycleOk (fetchFields s) ⟨x, .loc, a, g, r, k⟩ inp s →
      ∃ t, exec (.dsrcLoc x a g r k) s = .next t ∧ Delivered inp.localsOut g r k s t) ∧
    (CycleOk (fetchFields s) ⟨x, .heap, a, g, r, k⟩ inp s →
      ∃ t, exec (.dsrcHeap x a g r k) s = .next t ∧ Delivered inp.heapOut g r k s t) ∧
    (CycleOk (fetchFields s) ⟨x, .nid, a, g, r, k⟩ inp s →
      ∃ t, exec (.dsrcNid x a g r k) s = .next t ∧ Delivered (BitVec.ofNat 32 inp.newId.toNat) g r k s t)

/-- 41_data_source_mux.md section 2 (decisions D15, D20, D25): the bound argument at `argindex` reaches every
consumer; an unwritten slot that is loaded is the fault UnwrittenRead, and one that nobody consumes is none. -/
def Obligations.DataSourceBoundArgument : Prop :=
  ∀ (x : XOp) (a : AluOp) (g : ArgOp) (r : RetOp) (k : StkOp) (s : State) (inp : CycleIn) (rest : List CycleIn),
    s.stim = inp :: rest →
    let index := BitVec.ofNat 3 (fetchWord s).toNat
    (CycleOk (fetchFields s) ⟨x, .arg, a, g, r, k⟩ inp s →
      ∃ t, exec (.dsrcArg x a g r k) s = .next t ∧ Delivered (boundArg s index) g r k s t) ∧
    (∀ xsrc, argWritten s (!s.bstate) index = false →
      exec (.dsrcArg (.hold xsrc) a .hold .ldDv .hold) s = .fault (.unwrittenRead s)) ∧
    (∀ xsrc b, exec (.dsrcArg (.hold xsrc) a .hold (.hold b) .hold) s = .next { s with stim := rest })

/-- 41_data_source_mux.md section 2 (decision D13): the zero-extended low 24 bits of the fetched word reach every
consumer. -/
def Obligations.DataSourceImmediate : Prop :=
  ∀ (x : XOp) (a : AluOp) (g : ArgOp) (r : RetOp) (k : StkOp) (s : State) (inp : CycleIn) (rest : List CycleIn),
    s.stim = inp :: rest → CycleOk (fetchFields s) ⟨x, .imm, a, g, r, k⟩ inp s →
    ∃ t, exec (.dsrcImm x a g r k) s = .next t ∧
      Delivered (BitVec.ofNat 32 ((Image.read s.imem s.exptr.toNat).toNat % 2 ^ 24)) g r k s t

/-- R175: the committed return register reaches every consumer, itself among them; reading it never faults. -/
def Obligations.DataSourceReturnRegister : Prop :=
  ∀ (x : XOp) (a : AluOp) (g : ArgOp) (r : RetOp) (k : StkOp) (s : State) (inp : CycleIn) (rest : List CycleIn),
    s.stim = inp :: rest →
    (CycleOk (fetchFields s) ⟨x, .ret, a, g, r, k⟩ inp s →
      ∃ t, exec (.dsrcRet x a g r k) s = .next t ∧ Delivered s.ret g r k s t) ∧
    (∀ xsrc, exec (.dsrcRet (.hold xsrc) a .hold .ldDv .hold) s = .next { s with stim := rest })

/-- R177: codes 6 and 7 give 0 to every consumer and never fault. -/
def Obligations.DataSourceReservedCodesGiveZero : Prop :=
  ∀ (b : BitVec 1) (x : XOp) (a : AluOp) (g : ArgOp) (r : RetOp) (k : StkOp) (s : State) (inp : CycleIn)
    (rest : List CycleIn), s.stim = inp :: rest →
    (CycleOk (fetchFields s) ⟨x, .rsv b, a, g, r, k⟩ inp s →
      ∃ t, exec (.dsrcRsv67 b x a g r k) s = .next t ∧ Delivered 0 g r k s t) ∧
    (∀ xsrc, exec (.dsrcRsv67 b (.hold xsrc) a .hold .ldDv .hold) s = .next { s with ret := 0, stim := rest })

/-! ### The execution-pointer rows -/

/-- 42_exptr_fetch.md sections 1 and 2 (decisions D7, D16, D26): hold, increment modulo 2^15, literal target. -/
def Obligations.ExptrHoldIncrementLiteral : Prop :=
  ∀ (d : DOp) (a : AluOp) (g : ArgOp) (r : RetOp) (k : StkOp) (s : State) (inp : CycleIn) (rest : List CycleIn),
    s.stim = inp :: rest →
    (∀ xsrc, CycleOk (fetchFields s) ⟨.hold xsrc, d, a, g, r, k⟩ inp s →
      ∃ t, exec (.xHold xsrc d a g r k) s = .next t ∧ t.exptr = s.exptr) ∧
    (CycleOk (fetchFields s) ⟨.inc, d, a, g, r, k⟩ inp s →
      ∃ t, exec (.xInc d a g r k) s = .next t ∧ t.exptr.toNat = (s.exptr.toNat + 1) % 2 ^ 15) ∧
    (CycleOk (fetchFields s) ⟨.lit, d, a, g, r, k⟩ inp s →
      ∃ t, exec (.xLit d a g r k) s = .next t ∧ t.exptr.toNat = (fetchWord s).toNat % 2 ^ 8)

/-- R193: the entry code of the info-table word at the low 10 bits of the heap word; no fault of its own. -/
def Obligations.ExptrFromTheInfoTable : Prop :=
  ∀ (d : DOp) (a : AluOp) (g : ArgOp) (r : RetOp) (k : StkOp) (s : State) (inp : CycleIn) (rest : List CycleIn),
    s.stim = inp :: rest →
    let target := (Image.read s.itab (inp.heapOut.toNat % 2 ^ 10)).toNat % 2 ^ 15
    (CycleOk (fetchFields s) ⟨.itab, d, a, g, r, k⟩ inp s →
      ∃ t, exec (.xItab d a g r k) s = .next t ∧ t.exptr.toNat = target) ∧
    (∀ b, exec (.xItab d a .hold (.hold b) .hold) s =
      .next { s with exptr := BitVec.ofNat 15 target, stim := rest })

/-- 42_exptr_fetch.md section 2 (decisions D24, D25, D39): the return address in the top of stack, which is not
popped; an unwritten top is UnwrittenRead; a top last written as a value is ContTagMismatch under `strictContTag`, and
is used as it stands without it. -/
def Obligations.ExptrFromTheContinuation : Prop :=
  ∀ (d : DOp) (a : AluOp) (g : ArgOp) (r : RetOp) (k : StkOp) (s : State) (inp : CycleIn) (rest : List CycleIn),
    s.stim = inp :: rest →
    (CycleOk (fetchFields s) ⟨.cont, d, a, g, r, k⟩ inp s →
      ∃ t, exec (.xCont d a g r k) s = .next t ∧
        t.exptr.toNat = (stkRead s s.sp).toNat / 2 ^ 14 % 2 ^ 15 ∧ (k = .hold → t.sp = s.sp ∧ t.stk = s.stk)) ∧
    (∀ b, stkTag s s.sp = .unwritten → exec (.xCont d a .hold (.hold b) .hold) s = .fault (.unwrittenRead s)) ∧
    (∀ b, stkTag s s.sp = .value → s.cfg.strictContTag = true →
      exec (.xCont d a .hold (.hold b) .hold) s = .fault (.contTagMismatch s)) ∧
    (∀ b, stkTag s s.sp = .value → s.cfg.strictContTag = false →
      ∃ t, exec (.xCont d a .hold (.hold b) .hold) s = .next t ∧
        t.exptr.toNat = (stkRead s s.sp).toNat / 2 ^ 14 % 2 ^ 15)

/-! ### The argument-bank rows -/

/-- 44_arg_bank.md section 3 (decisions D19, D20): the data value goes to the write bank at the counter, which counts
on modulo 8; a ninth write since the flip is ArgOverflow. -/
def Obligations.ArgumentWrite : Prop :=
  ∀ (x : XOp) (d : DOp) (a : AluOp) (r : RetOp) (k : StkOp) (s : State) (inp : CycleIn) (rest : List CycleIn),
    s.stim = inp :: rest →
    (CycleOk (fetchFields s) ⟨x, d, a, .we, r, k⟩ inp s →
      ∃ t, exec (.argWe x d a r k) s = .next t ∧
        argRead t s.bstate s.acount = dataValue d (fetchFields s) inp s ∧
        argWritten t s.bstate s.acount = true ∧ t.bstate = s.bstate ∧
        t.acount.toNat = (s.acount.toNat + 1) % 8 ∧ t.awrites = s.awrites + 1) ∧
    (∀ xsrc b, s.awrites = 8 → exec (.argWe (.hold xsrc) d a (.hold b) .hold) s = .fault (.argOverflow s))

/-- R254: on `arg_sw`, alone or with `arg_we`, the state bit inverts and the counter resets; alone it leaves both banks
as they are and raises no fault of its own. -/
def Obligations.ArgumentBankSwitch : Prop :=
  ∀ (x : XOp) (d : DOp) (a : AluOp) (r : RetOp) (k : StkOp) (s : State) (inp : CycleIn) (rest : List CycleIn),
    s.stim = inp :: rest →
    (CycleOk (fetchFields s) ⟨x, d, a, .sw, r, k⟩ inp s →
      ∃ t, exec (.argSw x d a r k) s = .next t ∧ t.bstate = !s.bstate ∧ t.acount = 0 ∧ t.awrites = 0 ∧
        t.bank0 = s.bank0 ∧ t.bank1 = s.bank1) ∧
    (CycleOk (fetchFields s) ⟨x, d, a, .weSw, r, k⟩ inp s →
      ∃ t, exec (.argWeSw x d a r k) s = .next t ∧ t.bstate = !s.bstate ∧ t.acount = 0 ∧ t.awrites = 0) ∧
    (∀ xsrc b, exec (.argSw (.hold xsrc) d a (.hold b) .hold) s =
      .next { s with bstate := !s.bstate, acount := 0, awrites := 0, stim := rest })

/-- 44_arg_bank.md section 4 (conflict C2, decision D19): a write in a flip cycle goes to the write bank before the
flip at the counter before its reset, and is bound from the next cycle on; the reset wins. -/
def Obligations.ArgumentWriteWithSwitch : Prop :=
  ∀ (x : XOp) (d : DOp) (a : AluOp) (r : RetOp) (k : StkOp) (s : State) (inp : CycleIn) (rest : List CycleIn),
    s.stim = inp :: rest →
    (CycleOk (fetchFields s) ⟨x, d, a, .weSw, r, k⟩ inp s →
      ∃ t, exec (.argWeSw x d a r k) s = .next t ∧
        boundArg t s.acount = dataValue d (fetchFields s) inp s ∧ argWritten t (!t.bstate) s.acount = true ∧
        t.bstate = !s.bstate ∧ t.acount = 0 ∧ t.awrites = 0) ∧
    (∀ xsrc b, s.awrites = 8 → exec (.argWeSw (.hold xsrc) d a (.hold b) .hold) s = .fault (.argOverflow s))

/-- 46_cycle_step.md section 3: with neither signal, the banks, their roles and the counters keep their values. -/
def Obligations.ArgumentBanksHold : Prop :=
  ∀ (x : XOp) (d : DOp) (a : AluOp) (r : RetOp) (k : StkOp) (s : State) (inp : CycleIn) (rest : List CycleIn),
    s.stim = inp :: rest → CycleOk (fetchFields s) ⟨x, d, a, .hold, r, k⟩ inp s →
    ∃ t, exec (.argHold x d a r k) s = .next t ∧ t.bank0 = s.bank0 ∧ t.bank1 = s.bank1 ∧ t.bstate = s.bstate ∧
      t.acount = s.acount ∧ t.awrites = s.awrites

/-! ### The return-register rows -/

/-- 45_alu_return.md section 6 (decision D25 for the fault): the register latches the data value or the ALU output; an
ALU load whose operands are unwritten is UnwrittenRead. -/
def Obligations.ReturnRegisterLoads : Prop :=
  ∀ (x : XOp) (d : DOp) (a : AluOp) (g : ArgOp) (k : StkOp) (s : State) (inp : CycleIn) (rest : List CycleIn),
    s.stim = inp :: rest →
    (CycleOk (fetchFields s) ⟨x, d, a, g, .ldDv, k⟩ inp s →
      ∃ t, exec (.retLdDv x d a g k) s = .next t ∧ t.ret = dataValue d (fetchFields s) inp s) ∧
    (CycleOk (fetchFields s) ⟨x, d, a, g, .ldAlu, k⟩ inp s →
      ∃ t, exec (.retLdAlu x d a g k) s = .next t ∧
        t.ret = aluOut s.cfg.cmpSigned a (boundArg s 0) (boundArg s 1)) ∧
    (∀ xsrc f, argWritten s (!s.bstate) 0 = false →
      exec (.retLdAlu (.hold xsrc) d (.fn f) .hold .hold) s = .fault (.unwrittenRead s)) ∧
    (∀ xsrc f, f ≠ .not → argWritten s (!s.bstate) 1 = false →
      exec (.retLdAlu (.hold xsrc) d (.fn f) .hold .hold) s = .fault (.unwrittenRead s))

/-- R297: with `ret_ld` = 0 the register holds, neither `alu2ret` nor `aluop` has any effect, and it consumes no data
value: with no other consumer, `dsrc_sel` has no effect. -/
def Obligations.ReturnRegisterHold : Prop :=
  ∀ (b : Bool) (x : XOp) (d : DOp) (a : AluOp) (g : ArgOp) (k : StkOp) (s : State) (inp : CycleIn)
    (rest : List CycleIn), s.stim = inp :: rest →
    (CycleOk (fetchFields s) ⟨x, d, a, g, .hold b, k⟩ inp s →
      ∃ t, exec (.retHold b x d a g k) s = .next t ∧ t.ret = s.ret) ∧
    (∀ b' a', exec (.retHold b' x d a' g k) s = exec (.retHold b x d a g k) s) ∧
    (∀ d', k ≠ .wv → g = .hold ∨ g = .sw → exec (.retHold b x d' a g k) s = exec (.retHold b x d a g k) s)

/-! ### The stack rows -/

/-- R226: with none of the four controls the pointer and the stack hold, and no stack fault is raised. -/
def Obligations.StackHold : Prop :=
  ∀ (x : XOp) (d : DOp) (a : AluOp) (g : ArgOp) (r : RetOp) (s : State) (inp : CycleIn) (rest : List CycleIn),
    s.stim = inp :: rest →
    (CycleOk (fetchFields s) ⟨x, d, a, g, r, .hold⟩ inp s →
      ∃ t, exec (.stkHold x d a g r) s = .next t ∧ t.sp = s.sp ∧ t.stk = s.stk) ∧
    (∀ φ, exec (.stkHold x d a g r) s = .fault φ → 4 ≤ faultCode φ)

/-- 43_eval_stack.md section 2 (decisions D2, D3, D4, D22): a push writes the slot above the top and makes it the top;
a value is the data value; a continuation is `exptr` (plus `contExptrOffset`), `cur_closure` and `n_locals`; at `sp` =
0x7FFF both are StackOverflow. -/
def Obligations.StackPushes : Prop :=
  ∀ (x : XOp) (d : DOp) (a : AluOp) (g : ArgOp) (r : RetOp) (s : State) (inp : CycleIn) (rest : List CycleIn),
    s.stim = inp :: rest →
    (CycleOk (fetchFields s) ⟨x, d, a, g, r, .wv⟩ inp s →
      ∃ t, exec (.stkWv x d a g r) s = .next t ∧ t.sp.toNat = s.sp.toNat + 1 ∧
        stkRead t t.sp = dataValue d (fetchFields s) inp s ∧ stkTag t t.sp = .value) ∧
    (CycleOk (fetchFields s) ⟨x, d, a, g, r, .wc⟩ inp s →
      ∃ t, exec (.stkWc x d a g r) s = .next t ∧ t.sp.toNat = s.sp.toNat + 1 ∧
        (stkRead t t.sp).toNat =
          (s.exptr.toNat + s.cfg.contExptrOffset.toNat) % 2 ^ 15 * 2 ^ 14 + inp.curClosure.toNat * 2 ^ 4 +
            inp.nLocals.toNat ∧
        stkTag t t.sp = .cont) ∧
    (s.sp = 0x7FFF → exec (.stkWv x d a g r) s = .fault (.stackOverflow s) ∧
      exec (.stkWc x d a g r) s = .fault (.stackOverflow s))

/-- 43_eval_stack.md section 3 (decisions D5, D22): the two pops lower the pointer and leave the stack's words; below
slot 0 both are StackUnderflow. -/
def Obligations.StackPops : Prop :=
  ∀ (x : XOp) (d : DOp) (a : AluOp) (g : ArgOp) (r : RetOp) (s : State) (inp : CycleIn) (rest : List CycleIn),
    s.stim = inp :: rest →
    (CycleOk (fetchFields s) ⟨x, d, a, g, r, .dec⟩ inp s →
      ∃ t, exec (.stkDec x d a g r) s = .next t ∧ t.sp.toNat + 1 = s.sp.toNat ∧ t.stk = s.stk) ∧
    (CycleOk (fetchFields s) ⟨x, d, a, g, r, .clr⟩ inp s →
      ∃ t, exec (.stkClr x d a g r) s = .next t ∧ t.sp.toNat + inp.nLocals.toNat = s.sp.toNat ∧ t.stk = s.stk) ∧
    (s.sp = 0 → exec (.stkDec x d a g r) s = .fault (.stackUnderflow s)) ∧
    (s.sp.toNat < inp.nLocals.toNat → exec (.stkClr x d a g r) s = .fault (.stackUnderflow s))

/-- R227: the pointer after a cycle, by the asserted signal; no completed cycle has two of them. -/
def Obligations.StackPointerUpdate : Prop :=
  ∀ (s : State) (inp : CycleIn) (rest : List CycleIn) (t : State), s.stim = inp :: rest → step s = .next t →
    let sDec := inp.cv.getLsbD 18
    let sClr := inp.cv.getLsbD 19
    let sWv := inp.cv.getLsbD 20
    let sWc := inp.cv.getLsbD 21
    sDec.toNat + sClr.toNat + sWv.toNat + sWc.toNat ≤ 1 ∧
    (sWv = true ∨ sWc = true → t.sp.toNat = s.sp.toNat + 1) ∧
    (sDec = true → t.sp.toNat + 1 = s.sp.toNat) ∧
    (sClr = true → t.sp.toNat + inp.nLocals.toNat = s.sp.toNat) ∧
    (sDec = false → sClr = false → sWv = false → sWc = false → t.sp = s.sp)

/-- 46_cycle_step.md section 4: an idle cycle completes in every state and changes nothing. -/
def Obligations.IdleCycleChangesNothing : Prop :=
  ∀ (xsrc : BitVec 2) (d : DOp) (a : AluOp) (s : State) (inp : CycleIn) (rest : List CycleIn),
    s.stim = inp :: rest → exec (.idle xsrc d a) s = .next { s with stim := rest }

/-! ### The rows of 32 bits -/

/-- 40_field_decoder.md section 4 (log entry 3): the three fields of the instruction word that drive a unit. -/
def Obligations.InstructionFieldsReachTheirUnits : Prop :=
  ∀ (f : InstrFields) (s : State) (inp : CycleIn) (rest : List CycleIn), s.stim = inp :: rest →
    CycleOk f (ctlOf s inp) inp s →
    ∃ t, exec (.instr f) s = .next t ∧
      ((ctlOf s inp).x = .lit → t.exptr.toNat = f.nInstrs.toNat) ∧
      ((ctlOf s inp).d = .imm →
        Delivered (BitVec.ofNat 32 f.imm.toNat) (ctlOf s inp).g (ctlOf s inp).r (ctlOf s inp).k s t) ∧
      ((ctlOf s inp).d = .arg →
        Delivered (boundArg s f.argindex) (ctlOf s inp).g (ctlOf s inp).r (ctlOf s inp).k s t)

/-- 40_field_decoder.md section 4 (log entry 3): the entry code of the info-table word drives the execution pointer. -/
def Obligations.InfoEntryCodeReachesTheExptr : Prop :=
  ∀ (e : InfoFields) (s : State) (inp : CycleIn) (rest : List CycleIn), s.stim = inp :: rest →
    CycleOk (fetchFields s) (ctlOf s inp) inp s →
    ∃ t, exec (.info e) s = .next t ∧ ((ctlOf s inp).x = .itab → t.exptr = e.entryCode)

/-- 43_eval_stack.md section 2 (log entry 3; decisions D2, D3): the record under construction is what a cycle with
`s_wc` pushes, and no other cycle uses it. -/
def Obligations.ContinuationRecordIsPushed : Prop :=
  ∀ (c : ContFields) (s : State) (inp : CycleIn) (rest : List CycleIn), s.stim = inp :: rest →
    (CycleOk (fetchFields s) (ctlOf s inp) inp s →
      ∃ t, exec (.cont c) s = .next t ∧
        ((ctlOf s inp).k = .wc → stkTag t (s.sp + 1) = .cont ∧
          (stkRead t (s.sp + 1)).toNat =
            c.cExptr.toNat * 2 ^ 14 + c.cClosure.toNat * 2 ^ 4 + c.cNlocals.toNat)) ∧
    ((ctlOf s inp).k ≠ .wc → exec (.cont c) s = step s)

/-- 40_field_decoder.md section 4: no other field of the two decoded words has any effect on the core. -/
def Obligations.OtherDecodedFieldsDoNotMatter : Prop :=
  (∀ (f f' : InstrFields) (s : State), f.argindex = f'.argindex → f.nInstrs = f'.nInstrs → f.imm = f'.imm →
    exec (.instr f) s = exec (.instr f') s) ∧
  (∀ (e e' : InfoFields) (s : State), e.entryCode = e'.entryCode → exec (.info e) s = exec (.info e') s)

/-! ### Frames -/

/-- 46_cycle_step.md section 3: what each of the 42 rows of format CTRL22 leaves unchanged. -/
def Obligations.FrameOfTheControlRows : Prop :=
  ∀ (i : Instr) (c : Ctl) (s t : State), i.ctl = some c → exec i s = .next t → Frame c s t

/-- 46_cycle_step.md section 3: what the rows INSTR, INFO and CONT leave unchanged, in the cycle of the host's
controls. -/
def Obligations.FrameOfTheWordRows : Prop :=
  ∀ (f : InstrFields) (e : InfoFields) (k : ContFields) (s t : State) (inp : CycleIn) (rest : List CycleIn),
    s.stim = inp :: rest →
    (exec (.instr f) s = .next t → Frame (ctlOf s inp) s t) ∧
    (exec (.info e) s = .next t → Frame (ctlOf s inp) s t) ∧
    (exec (.cont k) s = .next t → Frame (ctlOf s inp) s t)

/-! ### What does not matter -/

/-- 41_data_source_mux.md section 3, 42_exptr_fetch.md section 1, 45_alu_return.md sections 1 and 6: a selector whose
unit is not used in the cycle has no effect, not even on a fault. -/
def Obligations.UnusedSelectorsDoNotMatter : Prop :=
  ∀ (i j : Instr) (c c' : Ctl) (s : State), i.ctl = some c → j.ctl = some c' → c.g = c'.g → c.k = c'.k →
    (c.x = c'.x ∨ ∃ n n', c.x = .hold n ∧ c'.x = .hold n') →
    (c.r = c'.r ∨ ∃ b b', c.r = .hold b ∧ c'.r = .hold b') →
    (c.d = c'.d ∨ (c.k ≠ .wv ∧ c.g ≠ .we ∧ c.g ≠ .weSw ∧ c.r ≠ .ldDv)) →
    (c.a = c'.a ∨ c.r ≠ .ldAlu) →
    exec i s = exec j s

/-- 30_encoding.md section 6: an input that a cycle does not use has no effect on what it commits. -/
def Obligations.UnusedInputsDoNotMatter : Prop :=
  ∀ (s t : State) (inp inp' : CycleIn) (rest : List CycleIn), s.stim = inp :: rest → inp'.cv = inp.cv →
    let c := ctlOf s inp
    let used := c.k = .wv ∨ c.g = .we ∨ c.g = .weSw ∨ c.r = .ldDv
    (c.d = .loc → used → inp'.localsOut = inp.localsOut) →
    (c.d = .heap → used → inp'.heapOut = inp.heapOut) →
    (c.x = .itab → inp'.heapOut.toNat % 2 ^ 10 = inp.heapOut.toNat % 2 ^ 10) →
    (c.d = .nid → used → inp'.newId = inp.newId) →
    (c.k = .wc → inp'.curClosure = inp.curClosure) →
    (c.k = .wc ∨ c.k = .clr → inp'.nLocals = inp.nLocals) →
    step s = .next t → step { s with stim := inp' :: rest } = .next t

/-- 10_state.md section 8 (decisions D19, D24, D25): two states that differ in the shadow state alone commit the same
values, whenever both complete the cycle. -/
def Obligations.ShadowStateNeverChangesAValue : Prop :=
  ∀ s t s' t' : State, SameHardware s t → step s = .next s' → step t = .next t' → SameHardware s' t'

/-! ### Invariants -/

/-- 20_memory.md section 1 (log entry 10): a step keeps the memories in canonical form. -/
def Obligations.StepKeepsTheMemoriesCanonical : Prop :=
  ∀ s t : State, MemWf s → step s = .next t → MemWf t

/-- 44_arg_bank.md sections 3 to 5 (decision D19): a step keeps the argument counter equal to the writes since the
flip, at most 8, which have filled the write bank from slot 0 upward. -/
def Obligations.StepKeepsTheArgumentCounter : Prop :=
  ∀ s t : State, ArgInv s → step s = .next t → ArgInv t

/-- 10_state.md section 3, 20_memory.md section 1 (decisions D3, D21, D22): a step keeps slot 0 unwritten, every slot
from 1 to the top written, and bits 31-29 of every continuation 0. -/
def Obligations.StepKeepsTheStackDiscipline : Prop :=
  ∀ s t : State, StackInv s → step s = .next t → StackInv t

/-- The reset state meets the three invariants. -/
def Obligations.ResetMeetsTheInvariants : Prop :=
  MemWf State.reset ∧ ArgInv State.reset ∧ StackInv State.reset

/-! ### Over more than one cycle -/

/-- 43_eval_stack.md section 5 (decisions D2, D4): a cycle that pushes a continuation, then a cycle RETURN, give back
the `exptr` and the pointer of the push. -/
def Obligations.ContinuationRoundTrip : Prop :=
  ∀ (s t : State) (inp inp' : CycleIn) (rest : List CycleIn) (d : DOp) (a : AluOp) (b : Bool),
    s.stim = inp :: inp' :: rest → s.cfg.contExptrOffset = 0 → (ctlOf s inp).k = .wc → step s = .next t →
    ctlOf s inp' = ⟨.cont, d, a, .hold, .hold b, .dec⟩ →
    ∃ u, step t = .next u ∧ u.exptr = s.exptr ∧ u.sp = s.sp

/-- 44_arg_bank.md section 6 (decisions D6, D19, D20): up to 8 cycles that write the words `vs` from the locals output
(control vector 0x4000), then a switch (0x8000), bind exactly those words, with the counter at 0. -/
def Obligations.ArgumentBankRoundTrip : Prop :=
  ∀ (s : State) (vs : List Word) (rest : List CycleIn), vs.length ≤ 8 → s.awrites = 0 → s.acount = 0 →
    s.stim = vs.map (fun v => { CycleIn.ofVector 0x4000 with localsOut := v }) ++ CycleIn.ofVector 0x8000 :: rest →
    ∃ t, Host.Core.run Sys2Proof.core (vs.length + 1) s = .next t ∧ State.acount t = 0 ∧ State.stim t = rest ∧
      ∀ (i : BitVec 3) (v : Word), vs[i.toNat]? = some v → boundArg t i = v ∧ argWritten t (!State.bstate t) i = true

/-- 70_reset_and_hazards.md section 3: every read of a cycle sees the state committed before it, whatever the cycle
also writes. The data sources IMM, ARG and RET deliver, to every consumer, a field of the word at the old `exptr`, a slot
of the read bank before a flip, and the old return register; an ALU load takes the operands of the read bank before a
flip; the new `exptr` is made of the old one, of the literal of the old word, or of the old top of stack; a pushed
continuation saves the old `exptr`; an argument write goes to the old write bank at the old counter; and the memory
words fetched and looked up next are the unchanged images at the new addresses. -/
def Obligations.ReadsSeeTheCommittedState : Prop :=
  ∀ (s t : State) (inp : CycleIn) (rest : List CycleIn), s.stim = inp :: rest → step s = .next t →
    let c := ctlOf s inp
    let word := Image.read s.imem s.exptr.toNat
    (c.d = .imm → Delivered (BitVec.ofNat 32 (word.toNat % 2 ^ 24)) c.g c.r c.k s t) ∧
    (c.d = .arg → Delivered (boundArg s (BitVec.ofNat 3 word.toNat)) c.g c.r c.k s t) ∧
    (c.d = .ret → Delivered s.ret c.g c.r c.k s t) ∧
    (c.r = .ldAlu → t.ret = aluOut s.cfg.cmpSigned c.a (boundArg s 0) (boundArg s 1)) ∧
    (c.x = .inc → t.exptr.toNat = (s.exptr.toNat + 1) % 2 ^ 15) ∧
    (c.x = .lit → t.exptr.toNat = word.toNat % 2 ^ 8) ∧
    (c.x = .cont → t.exptr.toNat = (stkRead s s.sp).toNat / 2 ^ 14 % 2 ^ 15) ∧
    (c.k = .wc → (stkRead t (s.sp + 1)).toNat / 2 ^ 14 =
      (s.exptr.toNat + s.cfg.contExptrOffset.toNat) % 2 ^ 15) ∧
    (c.g = .we ∨ c.g = .weSw →
      argRead t s.bstate s.acount = dataValue c.d (fetchFields s) inp s ∧ argWritten t s.bstate s.acount = true) ∧
    fetchWord t = Image.read s.imem t.exptr.toNat

/-- 46_cycle_step.md section 3 (decision D36): the outputs of a state and the coming inputs. The registers are those
of the state, the decoded fields are the ranges of bits of the fetched word and of the info-table word, the ports show
the observed slots, which are the bound arguments where they have been written, and the data value, the ALU output, the
top of stack and the entry code are what a completed cycle latches, pushes and jumps to. -/
def Obligations.OutputsAreWhatTheCycleUses : Prop :=
  ∀ (s : State) (inp : CycleIn) (rest : List CycleIn), s.stim = inp :: rest →
    let word := (Image.read s.imem s.exptr.toNat).toNat
    let entry := (Image.read s.itab (inp.heapOut.toNat % 2 ^ 10)).toNat
    let index := BitVec.ofNat 3 word
    ∃ o, sample s = some o ∧
      (o.exptr = s.exptr ∧ o.sp = s.sp ∧ o.bstate = s.bstate ∧ o.acount = s.acount ∧ o.ret = s.ret) ∧
      o.instr.toNat = word ∧
      (o.fields.opcode.toNat = word / 2 ^ 27 ∧ o.fields.dsrc.toNat = word / 2 ^ 24 % 2 ^ 3 ∧
        o.fields.name.toNat = word % 2 ^ 10 ∧ o.fields.argindex.toNat = word % 2 ^ 3 ∧
        o.fields.freevarindex.toNat = word % 2 ^ 8 ∧ o.fields.litpattern.toNat = word / 2 ^ 8 % 2 ^ 16 ∧
        o.fields.conitable.toNat = word / 2 ^ 8 % 2 ^ 10 ∧ o.fields.nInstrs.toNat = word % 2 ^ 8 ∧
        o.fields.imm.toNat = word % 2 ^ 24) ∧
      (o.info.entryCode.toNat = entry % 2 ^ 15 ∧ o.info.nvars.toNat = entry / 2 ^ 15 % 2 ^ 7 ∧
        o.info.nptrs.toNat = entry / 2 ^ 22 % 2 ^ 7 ∧ o.info.arity.toNat = entry / 2 ^ 29) ∧
      (o.tos = observeStack s s.sp ∧ o.ard = observeArgument s (!s.bstate) index ∧
        o.opA = observeArgument s (!s.bstate) 0 ∧ o.opB = observeArgument s (!s.bstate) 1) ∧
      (∀ i, argWritten s (!s.bstate) i = true → observeArgument s (!s.bstate) i = boundArg s i) ∧
      (∀ t, step s = .next t →
        ((ctlOf s inp).r = .ldDv → t.ret = o.dv) ∧ ((ctlOf s inp).r = .ldAlu → t.ret = o.alu) ∧
        ((ctlOf s inp).k = .wv → observeStack t t.sp = o.dv) ∧
        ((ctlOf s inp).g = .we ∨ (ctlOf s inp).g = .weSw → observeArgument t s.bstate s.acount = o.dv) ∧
        ((ctlOf s inp).x = .cont → t.exptr = (contFields o.tos).cExptr) ∧
        ((ctlOf s inp).x = .itab → t.exptr = o.info.entryCode))
end

