-- ==== Sys2Proof/Laws/Decode.lean ====
section
/-! SUPPORT. The laws of the code tables, unit by unit, and of the packing of a control vector. -/

namespace Sys2Proof.Laws

/-! ### Each unit's codes: every code has one reading, and no bit is lost -/

@[simp] theorem xOp_bits_ofBits (b : BitVec 3) : (XOp.ofBits b).bits = b := by revert b; decide

@[simp] theorem xOp_ofBits_bits (x : XOp) : XOp.ofBits x.bits = x := by
  cases x with
  | hold xsrc => revert xsrc; decide
  | _ => rfl

@[simp] theorem dOp_bits_ofBits (b : BitVec 3) : (DOp.ofBits b).bits = b := by revert b; decide

@[simp] theorem dOp_ofBits_bits (d : DOp) : DOp.ofBits d.bits = d := by
  cases d with
  | rsv b => revert b; decide
  | _ => rfl

@[simp] theorem argOp_bits_ofBits (b : BitVec 2) : (ArgOp.ofBits b).bits = b := by revert b; decide

@[simp] theorem argOp_ofBits_bits (g : ArgOp) : ArgOp.ofBits g.bits = g := by cases g <;> rfl

@[simp] theorem retOp_bits_ofBits (b : BitVec 2) : (RetOp.ofBits b).bits = b := by revert b; decide

@[simp] theorem retOp_ofBits_bits (r : RetOp) : RetOp.ofBits r.bits = r := by
  cases r with
  | hold b => cases b <;> rfl
  | _ => rfl

@[simp] theorem stkOp_bits_ofBits (b : BitVec 4) : (StkOp.ofBits b).bits = b := by revert b; decide

theorem stkOp_ofBits_bits {k : StkOp} (h : k.wf = true) : StkOp.ofBits k.bits = k := by
  cases k with
  | conflict b => revert b; decide
  | _ => rfl

theorem stkOp_wf_ofBits (b : BitVec 4) : (StkOp.ofBits b).wf = true := by revert b; decide

/-- An assignment that gives each code its own operation gives every operation a code. -/
theorem aluMap_mem {m : AluMap} (h : m.toList.Nodup) (f : AluFn) : f ∈ m.toList := by
  have hall : ∀ g : AluFn, g ∈ AluMap.spec.toList := by intro g; cases g <;> decide
  have hp := (h.subperm fun g _ => hall g).perm_of_length_le (by simp)
  exact hp.mem_iff.2 (hall f)

theorem aluMap_idx_lt {m : AluMap} (h : m.toList.Nodup) (f : AluFn) : m.toList.idxOf f < 12 := by
  have := List.idxOf_lt_length_of_mem (aluMap_mem h f)
  simpa using this

theorem reserved_bits (lo : AluOp) (h : ∀ f, lo ≠ .fn f) :
    ¬ (lo.bits AluMap.spec).toNat < 12 ∧ AluOp.reserved (lo.bits AluMap.spec) = lo := by
  cases lo with
  | fn f => exact absurd rfl (h f)
  | rsv0C0F lo => clear h; revert lo; decide
  | rsv101F lo => clear h; revert lo; decide
  | rsv203F lo => clear h; revert lo; decide
  | rsv407F lo => clear h; revert lo; decide
  | rsv80FF lo => clear h; revert lo; decide

/-- A reserved code does not depend on the assignment. -/
theorem bits_of_ne_fn {a : AluOp} (h : ∀ f, a ≠ .fn f) (m : AluMap) : a.bits m = a.bits AluMap.spec := by
  cases a with
  | fn f => exact absurd rfl (h f)
  | _ => rfl

theorem aluOp_ofBits_bits {m : AluMap} (h : m.toList.Nodup) (a : AluOp) : AluOp.ofBits m (a.bits m) = a := by
  by_cases hf : ∃ f, a = .fn f
  · obtain ⟨f, rfl⟩ := hf
    have hi := aluMap_idx_lt h f
    have ht : (BitVec.ofNat 8 (m.toList.idxOf f)).toNat = m.toList.idxOf f := by
      rw [BitVec.toNat_ofNat]; omega
    have hg : m.toList[m.toList.idxOf f]'(by simpa using hi) = f := List.getElem_idxOf _
    simp only [AluOp.bits, AluOp.ofBits, ht, hi, dite_true]
    exact congrArg AluOp.fn (Eq.trans (by simp only [Vector.getElem_toList]) hg)
  · have hf' : ∀ f, a ≠ .fn f := fun f hf' => hf ⟨f, hf'⟩
    obtain ⟨h1, h2⟩ := reserved_bits a hf'
    rw [bits_of_ne_fn hf' m, AluOp.ofBits, dif_neg h1, h2]

theorem aluOp_bits_ofBits {m : AluMap} (h : m.toList.Nodup) (b : BitVec 8) : (AluOp.ofBits m b).bits m = b := by
  by_cases hb : b.toNat < 12
  · have hi : m.toList.idxOf (m[b.toNat]'hb) = b.toNat := by
      have := h.idxOf_getElem b.toNat (by simpa using hb)
      simpa using this
    simp [AluOp.ofBits, hb, AluOp.bits, hi]
  · have key : ∀ b : BitVec 8, ¬ b.toNat < 12 →
        (AluOp.reserved b).bits AluMap.spec = b ∧ (match AluOp.reserved b with | .fn _ => false | _ => true) = true := by
      decide
    obtain ⟨h1, h2⟩ := key b hb
    rw [AluOp.ofBits, dif_neg hb, bits_of_ne_fn (fun f hf => by simp [hf] at h2) m, h1]

/-! ### The packing of a control vector (30_encoding.md R114): each unit's bits stand in their place -/

section packing

variable (m : AluMap) (c : Ctl)

theorem toWord_x : (c.toWord m).extractLsb' 0 3 = c.x.bits := BitVec.extractLsb'_append_eq_right

theorem toWord_d : (c.toWord m).extractLsb' 3 3 = c.d.bits := by
  unfold Ctl.toWord
  rw [BitVec.extractLsb'_append_eq_of_le (by decide)]
  exact BitVec.extractLsb'_append_eq_right

theorem toWord_a : (c.toWord m).extractLsb' 6 8 = c.a.bits m := by
  unfold Ctl.toWord
  iterate 2 rw [BitVec.extractLsb'_append_eq_of_le (by decide)]
  exact BitVec.extractLsb'_append_eq_right

theorem toWord_g : (c.toWord m).extractLsb' 14 2 = c.g.bits := by
  unfold Ctl.toWord
  iterate 3 rw [BitVec.extractLsb'_append_eq_of_le (by decide)]
  exact BitVec.extractLsb'_append_eq_right

theorem toWord_r : (c.toWord m).extractLsb' 16 2 = c.r.bits := by
  unfold Ctl.toWord
  iterate 4 rw [BitVec.extractLsb'_append_eq_of_le (by decide)]
  exact BitVec.extractLsb'_append_eq_right

theorem toWord_k : (c.toWord m).extractLsb' 18 4 = c.k.bits := by
  unfold Ctl.toWord
  iterate 5 rw [BitVec.extractLsb'_append_eq_of_le (by decide)]
  exact BitVec.extractLsb'_eq_self

end packing

/-! ### The rows of a cycle's controls -/

/-- The rows that read the controls `c` are the instructions whose controls are `c`. -/
theorem mem_rows_iff (c : Ctl) (i : Instr) : i ∈ c.rows ↔ i.ctl = some c := by
  obtain ⟨x, d, a, g, r, k⟩ := c
  constructor
  · intro h
    simp only [Ctl.rows, List.mem_append, List.mem_cons, List.not_mem_nil, or_false] at h
    rcases h with ((rfl | rfl | rfl | rfl | rfl) | h) | h
    · cases a with
      | fn f => cases f <;> rfl
      | _ => rfl
    · cases d <;> rfl
    · cases x <;> rfl
    · cases g <;> rfl
    · cases r <;> rfl
    · cases k <;> simp only [Ctl.stkRow, List.mem_singleton, List.not_mem_nil] at h <;> subst h <;> rfl
    · unfold Ctl.idleRow at h
      split at h
      · rename_i he
        cases he
        rw [List.mem_singleton.1 h]
        rfl
      · cases h
  · intro h
    cases i <;> simp only [Instr.ctl, Option.some.injEq, reduceCtorEq, Ctl.mk.injEq] at h <;>
      obtain ⟨rfl, rfl, rfl, rfl, rfl, rfl⟩ := h <;>
      simp [Ctl.rows, Ctl.aluRow, Ctl.dsrcRow, Ctl.xRow, Ctl.argRow, Ctl.retRow, Ctl.stkRow, Ctl.idleRow]

/-- The lead row of the controls `c` is an instruction whose controls are `c`. -/
theorem leadRow_ctl (c : Ctl) : c.leadRow.ctl = some c := by
  have ha : c.aluRow.ctl = some c := (mem_rows_iff c _).1 (by simp [Ctl.rows])
  have hd : c.dsrcRow.ctl = some c := (mem_rows_iff c _).1 (by simp [Ctl.rows])
  obtain ⟨x, d, a, g, r, k⟩ := c
  cases k <;> cases g <;> cases r <;> cases x <;> simp only [Ctl.leadRow] <;> (try rfl)
  all_goals (rename_i b n; cases b <;> simp only [] <;> (try rfl))
  split
  · exact ha
  · split
    · exact hd
    · rename_i h1 h2
      simp only [ne_eq, not_not] at h1 h2
      subst h1 h2
      rfl

end Sys2Proof.Laws
end

