-- ==== Sys2Proof/Laws/Memory.lean ====
section
/-! SUPPORT. The laws of the memories and the argument banks: a read after a write, and the canonical form. -/

namespace Sys2Proof.Laws

open Sys2Proof.Machine

theorem lookup_insert {α : Type} (m : List (Nat × α)) (a b : Nat) (v : α) :
    Memory.lookup (Memory.insert m a v) b = if b = a then some v else Memory.lookup m b := by
  induction m with
  | nil => simp [Memory.insert, Memory.lookup]
  | cons c m ih =>
    obtain ⟨k, w⟩ := c
    simp only [Memory.insert]
    split
    · simp [Memory.lookup]
    · split
      · subst_vars
        simp only [Memory.lookup]
        split <;> rfl
      · simp only [Memory.lookup, ih]
        split <;> split <;> first | rfl | omega

theorem lookup_erase {α : Type} (m : List (Nat × α)) (a b : Nat) :
    Memory.lookup (Memory.erase m a) b = if b = a then none else Memory.lookup m b := by
  induction m with
  | nil => simp [Memory.erase, Memory.lookup]
  | cons c m ih =>
    obtain ⟨k, w⟩ := c
    by_cases hk : k = a
    · subst hk
      have : Memory.erase ((k, w) :: m) k = Memory.erase m k := by simp [Memory.erase]
      rw [this, ih]
      simp only [Memory.lookup]
      split <;> rfl
    · have : Memory.erase ((k, w) :: m) a = (k, w) :: Memory.erase m a := by simp [Memory.erase, hk]
      rw [this]
      simp only [Memory.lookup, ih]
      split <;> split <;> first | rfl | omega

theorem mem_insert {α : Type} {m : List (Nat × α)} {a : Nat} {v : α} {c : Nat × α}
    (h : c ∈ Memory.insert m a v) : c = (a, v) ∨ c ∈ m := by
  induction m with
  | nil => exact .inl (by simpa [Memory.insert] using h)
  | cons d m ih =>
    obtain ⟨k, w⟩ := d
    simp only [Memory.insert] at h
    split at h
    · rcases List.mem_cons.1 h with h | h
      · exact .inl h
      · exact .inr h
    · split at h
      · rcases List.mem_cons.1 h with h | h
        · exact .inl h
        · exact .inr (List.mem_cons_of_mem _ h)
      · rcases List.mem_cons.1 h with h | h
        · exact .inr (by simp [h])
        · rcases ih h with h | h
          · exact .inl h
          · exact .inr (List.mem_cons_of_mem _ h)

/-- A write keeps the canonical form. -/
theorem wf_insert {α : Type} {depth : Nat} {m : List (Nat × α)} {a : Nat} {v : α}
    (h : Memory.wf depth m) (ha : a < depth) : Memory.wf depth (Memory.insert m a v) := by
  refine ⟨?_, fun c hc => ?_⟩
  · have hp := h.1
    clear h
    induction m with
    | nil => simp [Memory.insert]
    | cons d m ih =>
      obtain ⟨k, w⟩ := d
      obtain ⟨hk, hm⟩ := List.pairwise_cons.1 hp
      simp only [Memory.insert]
      split
      · refine List.pairwise_cons.2 ⟨fun e he => ?_, hp⟩
        rcases List.mem_cons.1 he with rfl | he
        · assumption
        · have := hk e he
          simp only at *
          omega
      · split
        · subst_vars
          exact List.pairwise_cons.2 ⟨hk, hm⟩
        · refine List.pairwise_cons.2 ⟨fun e he => ?_, ih hm⟩
          rcases mem_insert he with rfl | he
          · simp only
            omega
          · exact hk e he
  · rcases mem_insert hc with rfl | hc
    · exact ha
    · exact h.2 c hc

/-- Removing a cell keeps the canonical form. -/
theorem wf_erase {α : Type} {depth : Nat} {m : List (Nat × α)} {a : Nat}
    (h : Memory.wf depth m) : Memory.wf depth (Memory.erase m a) :=
  ⟨h.1.filter _, fun c hc => h.2 c (List.mem_of_mem_filter hc)⟩

/-- Loading a word of an image keeps its canonical form. -/
theorem image_wf_load {depth : Nat} {m : List (Nat × Word)} {a : Nat} {v : Word}
    (h : Image.wf depth m) (ha : a < depth) : Image.wf depth (Image.load m a v) := by
  simp only [Image.load]
  split
  · exact ⟨wf_erase h.1, fun c hc => h.2 c (List.mem_of_mem_filter hc)⟩
  · refine ⟨wf_insert h.1 ha, fun c hc => ?_⟩
    rcases mem_insert hc with rfl | hc
    · assumption
    · exact h.2 c hc

theorem image_read_load (m : List (Nat × Word)) (a b : Nat) (v : Word) :
    Image.read (Image.load m a v) b = if b = a then v else Image.read m b := by
  simp only [Image.load, Image.read]
  split
  · rw [lookup_erase]
    split <;> simp_all
  · rw [lookup_insert]
    split <;> rfl

/-- A push keeps the canonical form of the stack memory. -/
theorem wf_stkWrite {m : List (Nat × StkCell)} {a : SAddr} {v : Word} {t : SlotTag}
    (h : Memory.wf Config.stkDepth m) : Memory.wf Config.stkDepth (stkWrite m a v t) :=
  wf_insert h (by simpa [Config.stkDepth] using a.isLt)

theorem lookup_stkWrite (m : List (Nat × StkCell)) (a b : SAddr) (v : Word) (t : SlotTag) :
    Memory.lookup (stkWrite m a v t) b.toNat =
      if b = a then some { word := v, tag := t } else Memory.lookup m b.toNat := by
  simp only [stkWrite, lookup_insert, ← BitVec.toNat_inj]

/-- The memories of the reset state are in canonical form. -/
theorem reset_memWf : MemWf State.reset := by
  decide

/-- What one slot of a bank holds after a write to a slot of it. -/
theorem bankWrite_get (k : Bank) (i j : BitVec 3) (v : Word) :
    (bankWrite k i v)[j.toNat]'j.isLt =
      if j = i then { val := v, written := true } else k[j.toNat]'j.isLt := by
  simp only [bankWrite, Vector.getElem_set, ← BitVec.toNat_inj, eq_comm]

end Sys2Proof.Laws
end

