-- ==== Sys2Proof/Laws/State.lean ====
section
/-! SUPPORT. One lemma per field for each update of the state. -/

namespace Sys2Proof.Laws

open Sys2Proof.Machine

section commit

variable (f : InstrFields) (e : InfoFields) (k : ContFields) (c : Ctl) (inp : CycleIn) (s : State)

@[simp] theorem commit_exptr : (commit f e k c inp s).exptr = nextExptr c.x f e s := rfl
@[simp] theorem commit_sp : (commit f e k c inp s).sp = nextSp c.k inp s := rfl
@[simp] theorem commit_stk :
    (commit f e k c inp s).stk = nextStk c.k (dataValue c.d f inp s) (encodeCont k) s := rfl
@[simp] theorem commit_bank0 :
    (commit f e k c inp s).bank0 = nextBank false c.g (dataValue c.d f inp s) s := rfl
@[simp] theorem commit_bank1 :
    (commit f e k c inp s).bank1 = nextBank true c.g (dataValue c.d f inp s) s := rfl
@[simp] theorem commit_bstate : (commit f e k c inp s).bstate = nextBstate c.g s := rfl
@[simp] theorem commit_acount : (commit f e k c inp s).acount = nextAcount c.g s := rfl
@[simp] theorem commit_awrites : (commit f e k c inp s).awrites = nextAwrites c.g s := rfl
@[simp] theorem commit_ret :
    (commit f e k c inp s).ret =
      nextRet c.r (dataValue c.d f inp s) (aluOut s.cfg.cmpSigned c.a (opA s) (opB s)) s := rfl
@[simp] theorem commit_imem : (commit f e k c inp s).imem = s.imem := rfl
@[simp] theorem commit_itab : (commit f e k c inp s).itab = s.itab := rfl
@[simp] theorem commit_cfg : (commit f e k c inp s).cfg = s.cfg := rfl
@[simp] theorem commit_stim : (commit f e k c inp s).stim = s.stim.tail := rfl

/-- A bank after the commit. -/
@[simp] theorem commit_bank (b : Bool) :
    bank (commit f e k c inp s) b = nextBank b c.g (dataValue c.d f inp s) s := by
  cases b <;> rfl

end commit

section reset

@[simp] theorem reset_stim : State.reset.stim = [] := rfl
@[simp] theorem reset_cfg : State.reset.cfg = defaultParams := rfl
@[simp] theorem reset_stk : State.reset.stk = [] := rfl
@[simp] theorem reset_awrites : State.reset.awrites = 0 := rfl

end reset

end Sys2Proof.Laws
end

