-- ==== Sys2Proof/Laws/Cycle.lean ====
section
/-! SUPPORT. What one cycle can do, said once: it commits when no check holds, and every instruction is a
cycle. -/

namespace Sys2Proof.Laws

open Sys2Proof.Machine

/-- Every access is inside its memory (20_memory.md R67). -/
@[simp] theorem accessesInRange_true (s : State) (inp : CycleIn) : accessesInRange s inp = true := by
  have h1 := s.exptr.isLt
  have h2 := (infoAddr inp).isLt
  have h3 := s.sp.isLt
  have h4 := (s.sp + 1).isLt
  unfold accessesInRange Config.imemDepth Config.itabDepth Config.stkDepth
  rw [decide_eq_true h1, decide_eq_true h2, decide_eq_true h3, decide_eq_true h4]
  rfl

theorem check_none {α : Type} (p : Prop) [Decidable p] (x : α) (o : Option α) :
    (if p then some x else o) = none ↔ ¬ p ∧ o = none := by
  split <;> simp_all

theorem stackConflict_iff (k : StkOp) : stackConflict k = true ↔ ∃ b, k = .conflict b := by
  cases k <;> simp [stackConflict]

/-- A cycle passes every check of R322 exactly when it is safe. -/
theorem firstFault_eq_none_iff (f : InstrFields) (c : Ctl) (inp : CycleIn) (s : State) :
    firstFault f c inp s = none ↔ CycleOk f c inp s := by
  simp only [firstFault, readBank, dvUsed, check_none, accessesInRange_true, stackConflict_iff]
  constructor
  · rintro ⟨h1, h2, h3, h4, h5, h6, h7, h8, -⟩
    constructor <;> simp_all
    · exact fun hd hu => h5 (by simpa only [or_assoc] using hu) hd
    · exact fun hx hs ht => absurd hs (by simp [h8 hx ht])
  · rintro ⟨h1, h2, h3, h4, h5, h6, h7, h8, h9, h10⟩
    simp_all
    exact ⟨fun h hd => h6 hd (by simpa only [or_assoc] using h), fun hx ht => by
      cases hs : s.cfg.strictContTag
      · rfl
      · exact absurd ht (h10 hx hs)⟩

/-- What a cycle can do when it answers a next state: it is safe, and everything commits. -/
theorem cycle_eq_next_iff {f : InstrFields} {e : InfoFields} {k : ContFields} {c : Ctl} {inp : CycleIn} {s t : State} :
    cycle f e k c inp s = .next t ↔ CycleOk f c inp s ∧ t = commit f e k c inp s := by
  rw [← firstFault_eq_none_iff]
  unfold cycle
  cases firstFault f c inp s <;> simp [eq_comm]

theorem cycle_of_ok {f : InstrFields} {e : InfoFields} {k : ContFields} {c : Ctl} {inp : CycleIn} {s : State}
    (h : CycleOk f c inp s) : cycle f e k c inp s = .next (commit f e k c inp s) :=
  cycle_eq_next_iff.2 ⟨h, rfl⟩

/-- A cycle never refuses. -/
theorem cycle_ne_refused (f : InstrFields) (e : InfoFields) (k : ContFields) (c : Ctl) (inp : CycleIn) (s : State)
    (r : Refusal) : cycle f e k c inp s ≠ .refused r := by
  unfold cycle
  split <;> simp

theorem runCtl_cons {c : Ctl} {s : State} {inp : CycleIn} {rest : List CycleIn} (h : s.stim = inp :: rest) :
    runCtl c s = cycle (fetchFields s) (infoFields s inp) (contNow s inp) c inp s := by
  simp [runCtl, h]

/-- A safe cycle completes with its commit. -/
theorem runCtl_of_ok {c : Ctl} {s : State} {inp : CycleIn} {rest : List CycleIn} (h : s.stim = inp :: rest)
    (ok : CycleOk (fetchFields s) c inp s) :
    runCtl c s = .next (commit (fetchFields s) (infoFields s inp) (contNow s inp) c inp s) := by
  rw [runCtl_cons h, cycle_of_ok ok]

/-- A written slot of the read bank shows its word. -/
theorem argRead_of_written {s : State} {i : BitVec 3} (h : argWritten s (!s.bstate) i = true) :
    argRead s (!s.bstate) i = boundArg s i := by
  rw [argRead, if_pos h, boundArg]
  cases s.bstate <;> rfl

/-- Every row of format CTRL22 is the cycle of its controls. -/
theorem exec_of_ctl {i : Instr} {c : Ctl} (h : i.ctl = some c) (s : State) : exec i s = runCtl c s := by
  cases i <;> simp only [Instr.ctl, Option.some.injEq, reduceCtorEq] at h <;> subst h <;> rfl

/-- A step with a cycle supplied is the cycle of its controls. -/
theorem step_cons {s : State} {inp : CycleIn} {rest : List CycleIn} (h : s.stim = inp :: rest) :
    step s = runCtl (ctlOf s inp) s := by
  simp only [step, fetchInstruction, h, decodeControl]
  exact exec_of_ctl (leadRow_ctl _) s

/-- An instruction word stands in the cycle of the host's controls. -/
theorem execInstr_cons {f : InstrFields} {s : State} {inp : CycleIn} {rest : List CycleIn} (h : s.stim = inp :: rest) :
    execInstr f s = cycle f (infoFields s inp) (contNow s inp) (ctlOf s inp) inp s := by
  simp [execInstr, h]

/-- An info-table word stands in the cycle of the host's controls. -/
theorem execInfo_cons {e : InfoFields} {s : State} {inp : CycleIn} {rest : List CycleIn} (h : s.stim = inp :: rest) :
    execInfo e s = cycle (fetchFields s) e (contNow s inp) (ctlOf s inp) inp s := by
  simp [execInfo, h]

/-- A continuation record stands in the cycle of the host's controls. -/
theorem execCont_cons {k : ContFields} {s : State} {inp : CycleIn} {rest : List CycleIn} (h : s.stim = inp :: rest) :
    execCont k s = cycle (fetchFields s) (infoFields s inp) k (ctlOf s inp) inp s := by
  simp [execCont, h]

/-- One slot of a bank at the end of a cycle. -/
theorem nextBank_get (b : Bool) (g : ArgOp) (dv : Word) (s : State) (i : BitVec 3) :
    (nextBank b g dv s)[i.toNat]'i.isLt =
      if (g = .we ∨ g = .weSw) ∧ b = s.bstate ∧ i = s.acount then { val := dv, written := true }
      else (bank s b)[i.toNat]'i.isLt := by
  by_cases hb : s.bstate = b
  · cases g <;> simp [nextBank, writeBank, hb, bankWrite_get]
  · have hb' : ¬ b = s.bstate := fun h => hb h.symm
    cases g <;> simp [nextBank, writeBank, hb, hb']

section slots

variable (f : InstrFields) (e : InfoFields) (k : ContFields) (c : Ctl) (inp : CycleIn) (s : State)

/-- A stack slot after the commit: the slot above the old top holds what was pushed, every other slot
what it held. -/
theorem lookup_commit (a : SAddr) :
    Memory.lookup (commit f e k c inp s).stk a.toNat =
      if a = s.sp + 1 then
        match c.k with
        | .wv => some { word := dataValue c.d f inp s, tag := .value }
        | .wc => some { word := encodeCont k, tag := .cont }
        | _ => Memory.lookup s.stk a.toNat
      else Memory.lookup s.stk a.toNat := by
  simp only [commit_stk]
  cases c.k <;> simp only [nextStk, lookup_stkWrite] <;> split <;> rfl

/-- An argument slot after the commit: the slot at the old counter of the old write bank holds what was
written, every other slot what it held. -/
theorem slot_commit (b : Bool) (i : BitVec 3) :
    (bank (commit f e k c inp s) b)[i.toNat]'i.isLt =
      if (c.g = .we ∨ c.g = .weSw) ∧ b = s.bstate ∧ i = s.acount then
        { val := dataValue c.d f inp s, written := true }
      else (bank s b)[i.toNat]'i.isLt := by
  have h := commit_bank f e k c inp s b
  simp only [h, nextBank_get]

/-- What a commit delivers: the data value reaches every consumer that is asserted, so any word it equals in a cycle
that consumes it was delivered. -/
theorem commit_delivered {v : Word}
    (hv : c.k = .wv ∨ c.g = .we ∨ c.g = .weSw ∨ c.r = .ldDv → dataValue c.d f inp s = v) :
    Delivered v c.g c.r c.k s (commit f e k c inp s) where
  pushed h := by
    have slot := lookup_commit f e k c inp s (s.sp + 1)
    rw [if_pos rfl] at slot
    simp only [stkRead, stkTag, slot, h, hv (.inl h), and_self]
  argument h := by
    have slot := slot_commit f e k c inp s s.bstate s.acount
    rw [if_pos ⟨h, rfl, rfl⟩] at slot
    simp only [argRead, argWritten, slot, if_true, hv (.inr (by tauto)), and_self]
  loaded h := by simp only [commit_ret, nextRet, h, hv (.inr (.inr (.inr h)))]

end slots

end Sys2Proof.Laws
end

