-- ==== Sys2Proof/Laws/PerInstr.lean ====
section
/-! SUPPORT. Per instruction: the encoding of each constructor has the bits that spec/opcode_table.json fixes for
its row. -/

namespace Sys2Proof.Laws

/-! ### The places of the six units in a packed control vector (30_encoding.md R114) -/

section places

variable (c : Ctl)

theorem place_of_extract {w : BitVec 22} {lo len : Nat} {v : BitVec len} (h : w.extractLsb' lo len = v) :
    w.toNat / 2 ^ lo % 2 ^ len = v.toNat := by
  rw [← h, BitVec.extractLsb'_toNat, Nat.shiftRight_eq_div_pow]

theorem place_x : (c.toWord AluMap.spec).toNat / 2 ^ 0 % 2 ^ 3 = (c.x.bits).toNat :=
  place_of_extract (toWord_x _ c)

theorem place_d : (c.toWord AluMap.spec).toNat / 2 ^ 3 % 2 ^ 3 = (c.d.bits).toNat :=
  place_of_extract (toWord_d _ c)

theorem place_a : (c.toWord AluMap.spec).toNat / 2 ^ 6 % 2 ^ 8 = (c.a.bits AluMap.spec).toNat :=
  place_of_extract (toWord_a _ c)

theorem place_g : (c.toWord AluMap.spec).toNat / 2 ^ 14 % 2 ^ 2 = (c.g.bits).toNat :=
  place_of_extract (toWord_g _ c)

theorem place_r : (c.toWord AluMap.spec).toNat / 2 ^ 16 % 2 ^ 2 = (c.r.bits).toNat :=
  place_of_extract (toWord_r _ c)

theorem place_k : (c.toWord AluMap.spec).toNat / 2 ^ 18 % 2 ^ 4 = (c.k.bits).toNat :=
  place_of_extract (toWord_k _ c)

end places

/-- The fixed bits of each row, as spec/opcode_table.json lists them: lowest bit, number of bits, value. -/
def tableFixed : Instr → List (Nat × Nat × Nat)
  | .instr _ => []
  | .info _ => []
  | .cont _ => [(29, 3, 0)]
  | .aluAnd _ _ _ _ _ => [(6, 8, 0)]
  | .aluOr _ _ _ _ _ => [(6, 8, 1)]
  | .aluNot _ _ _ _ _ => [(6, 8, 2)]
  | .aluXor _ _ _ _ _ => [(6, 8, 3)]
  | .aluAdd _ _ _ _ _ => [(6, 8, 4)]
  | .aluSub _ _ _ _ _ => [(6, 8, 5)]
  | .aluEq _ _ _ _ _ => [(6, 8, 6)]
  | .aluNe _ _ _ _ _ => [(6, 8, 7)]
  | .aluLt _ _ _ _ _ => [(6, 8, 8)]
  | .aluLe _ _ _ _ _ => [(6, 8, 9)]
  | .aluGt _ _ _ _ _ => [(6, 8, 10)]
  | .aluGe _ _ _ _ _ => [(6, 8, 11)]
  | .aluRsv0C0F _ _ _ _ _ _ => [(8, 6, 3)]
  | .aluRsv101F _ _ _ _ _ _ => [(10, 4, 1)]
  | .aluRsv203F _ _ _ _ _ _ => [(11, 3, 1)]
  | .aluRsv407F _ _ _ _ _ _ => [(12, 2, 1)]
  | .aluRsv80FF _ _ _ _ _ _ => [(13, 1, 1)]
  | .dsrcLoc _ _ _ _ _ => [(3, 3, 0)]
  | .dsrcArg _ _ _ _ _ => [(3, 3, 1)]
  | .dsrcHeap _ _ _ _ _ => [(3, 3, 2)]
  | .dsrcImm _ _ _ _ _ => [(3, 3, 3)]
  | .dsrcRet _ _ _ _ _ => [(3, 3, 4)]
  | .dsrcNid _ _ _ _ _ => [(3, 3, 5)]
  | .dsrcRsv67 _ _ _ _ _ _ => [(4, 2, 3)]
  | .xHold _ _ _ _ _ _ => [(2, 1, 0)]
  | .xInc _ _ _ _ _ => [(0, 3, 4)]
  | .xLit _ _ _ _ _ => [(0, 3, 5)]
  | .xItab _ _ _ _ _ => [(0, 3, 6)]
  | .xCont _ _ _ _ _ => [(0, 3, 7)]
  | .argWe _ _ _ _ _ => [(14, 2, 1)]
  | .argSw _ _ _ _ _ => [(14, 2, 2)]
  | .argWeSw _ _ _ _ _ => [(14, 2, 3)]
  | .argHold _ _ _ _ _ => [(14, 2, 0)]
  | .retLdDv _ _ _ _ _ => [(16, 2, 2)]
  | .retLdAlu _ _ _ _ _ => [(16, 2, 3)]
  | .retHold _ _ _ _ _ _ => [(17, 1, 0)]
  | .stkHold _ _ _ _ _ => [(18, 4, 0)]
  | .stkWv _ _ _ _ _ => [(18, 4, 4)]
  | .stkWc _ _ _ _ _ => [(18, 4, 8)]
  | .stkDec _ _ _ _ _ => [(18, 4, 1)]
  | .stkClr _ _ _ _ _ => [(18, 4, 2)]
  | .idle _ _ _ => [(2, 1, 0), (14, 8, 0)]

/-- The encoding of `i` has the bits the table fixes for its row. -/
def TableRow.Statement (i : Instr) : Prop :=
  ∀ p ∈ tableFixed i, encode AluMap.spec i / 2 ^ p.1 % 2 ^ p.2.1 = p.2.2

/-- A range of bits inside another one. -/
theorem sub_range (n base w j len : Nat) (h : j + len ≤ w) :
    n / 2 ^ (base + j) % 2 ^ len = n / 2 ^ base % 2 ^ w / 2 ^ j % 2 ^ len := by
  apply Nat.eq_of_testBit_eq
  intro i
  simp only [Nat.testBit_mod_two_pow, Nat.testBit_div_two_pow]
  by_cases hi : i < len
  · have : i + j < w := by omega
    simp only [hi, this, decide_true, Bool.true_and]
    congr 1
    omega
  · simp [hi]

/-- A row that fixes bits of one unit only. -/
theorem row_of_unit {i : Instr} {c : Ctl} (base w j len v : Nat) {u : Nat}
    (hc : encode AluMap.spec i = (c.toWord AluMap.spec).toNat) (ht : tableFixed i = [(base + j, len, v)])
    (hu : (c.toWord AluMap.spec).toNat / 2 ^ base % 2 ^ w = u) (hj : j + len ≤ w) (hv : u / 2 ^ j % 2 ^ len = v) :
    TableRow.Statement i := by
  intro p hp
  rw [ht, List.mem_singleton] at hp
  subst hp
  simp only [hc, sub_range _ base w j len hj, hu, hv]

theorem TableRow.instr (f : InstrFields) :
    TableRow.Statement (.instr f) := by
  simp [TableRow.Statement, tableFixed]

theorem TableRow.info (e : InfoFields) :
    TableRow.Statement (.info e) := by
  simp [TableRow.Statement, tableFixed]

theorem TableRow.cont (c : ContFields) :
    TableRow.Statement (.cont c) := by
  have h : (encodeCont c).extractLsb' 29 3 = 0#3 := by
    unfold encodeCont
    iterate 2 rw [BitVec.extractLsb'_append_eq_of_le (by decide)]
    exact BitVec.extractLsb'_append_eq_left
  have h' := congrArg BitVec.toNat h
  simp only [BitVec.extractLsb'_toNat, Nat.shiftRight_eq_div_pow] at h'
  simpa [TableRow.Statement, tableFixed, encode] using h'

theorem TableRow.aluAnd (x : XOp) (d : DOp) (g : ArgOp) (r : RetOp) (k : StkOp) :
    TableRow.Statement (.aluAnd x d g r k) :=
  row_of_unit 6 8 0 8 0 rfl rfl (place_a ⟨x, d, .fn .and, g, r, k⟩) (by decide)
    (by decide : ((AluOp.fn .and).bits AluMap.spec).toNat / 2 ^ 0 % 2 ^ 8 = 0)

theorem TableRow.aluOr (x : XOp) (d : DOp) (g : ArgOp) (r : RetOp) (k : StkOp) :
    TableRow.Statement (.aluOr x d g r k) :=
  row_of_unit 6 8 0 8 1 rfl rfl (place_a ⟨x, d, .fn .or, g, r, k⟩) (by decide)
    (by decide : ((AluOp.fn .or).bits AluMap.spec).toNat / 2 ^ 0 % 2 ^ 8 = 1)

theorem TableRow.aluNot (x : XOp) (d : DOp) (g : ArgOp) (r : RetOp) (k : StkOp) :
    TableRow.Statement (.aluNot x d g r k) :=
  row_of_unit 6 8 0 8 2 rfl rfl (place_a ⟨x, d, .fn .not, g, r, k⟩) (by decide)
    (by decide : ((AluOp.fn .not).bits AluMap.spec).toNat / 2 ^ 0 % 2 ^ 8 = 2)

theorem TableRow.aluXor (x : XOp) (d : DOp) (g : ArgOp) (r : RetOp) (k : StkOp) :
    TableRow.Statement (.aluXor x d g r k) :=
  row_of_unit 6 8 0 8 3 rfl rfl (place_a ⟨x, d, .fn .xor, g, r, k⟩) (by decide)
    (by decide : ((AluOp.fn .xor).bits AluMap.spec).toNat / 2 ^ 0 % 2 ^ 8 = 3)

theorem TableRow.aluAdd (x : XOp) (d : DOp) (g : ArgOp) (r : RetOp) (k : StkOp) :
    TableRow.Statement (.aluAdd x d g r k) :=
  row_of_unit 6 8 0 8 4 rfl rfl (place_a ⟨x, d, .fn .add, g, r, k⟩) (by decide)
    (by decide : ((AluOp.fn .add).bits AluMap.spec).toNat / 2 ^ 0 % 2 ^ 8 = 4)

theorem TableRow.aluSub (x : XOp) (d : DOp) (g : ArgOp) (r : RetOp) (k : StkOp) :
    TableRow.Statement (.aluSub x d g r k) :=
  row_of_unit 6 8 0 8 5 rfl rfl (place_a ⟨x, d, .fn .sub, g, r, k⟩) (by decide)
    (by decide : ((AluOp.fn .sub).bits AluMap.spec).toNat / 2 ^ 0 % 2 ^ 8 = 5)

theorem TableRow.aluEq (x : XOp) (d : DOp) (g : ArgOp) (r : RetOp) (k : StkOp) :
    TableRow.Statement (.aluEq x d g r k) :=
  row_of_unit 6 8 0 8 6 rfl rfl (place_a ⟨x, d, .fn .eq, g, r, k⟩) (by decide)
    (by decide : ((AluOp.fn .eq).bits AluMap.spec).toNat / 2 ^ 0 % 2 ^ 8 = 6)

theorem TableRow.aluNe (x : XOp) (d : DOp) (g : ArgOp) (r : RetOp) (k : StkOp) :
    TableRow.Statement (.aluNe x d g r k) :=
  row_of_unit 6 8 0 8 7 rfl rfl (place_a ⟨x, d, .fn .ne, g, r, k⟩) (by decide)
    (by decide : ((AluOp.fn .ne).bits AluMap.spec).toNat / 2 ^ 0 % 2 ^ 8 = 7)

theorem TableRow.aluLt (x : XOp) (d : DOp) (g : ArgOp) (r : RetOp) (k : StkOp) :
    TableRow.Statement (.aluLt x d g r k) :=
  row_of_unit 6 8 0 8 8 rfl rfl (place_a ⟨x, d, .fn .lt, g, r, k⟩) (by decide)
    (by decide : ((AluOp.fn .lt).bits AluMap.spec).toNat / 2 ^ 0 % 2 ^ 8 = 8)

theorem TableRow.aluLe (x : XOp) (d : DOp) (g : ArgOp) (r : RetOp) (k : StkOp) :
    TableRow.Statement (.aluLe x d g r k) :=
  row_of_unit 6 8 0 8 9 rfl rfl (place_a ⟨x, d, .fn .le, g, r, k⟩) (by decide)
    (by decide : ((AluOp.fn .le).bits AluMap.spec).toNat / 2 ^ 0 % 2 ^ 8 = 9)

theorem TableRow.aluGt (x : XOp) (d : DOp) (g : ArgOp) (r : RetOp) (k : StkOp) :
    TableRow.Statement (.aluGt x d g r k) :=
  row_of_unit 6 8 0 8 10 rfl rfl (place_a ⟨x, d, .fn .gt, g, r, k⟩) (by decide)
    (by decide : ((AluOp.fn .gt).bits AluMap.spec).toNat / 2 ^ 0 % 2 ^ 8 = 10)

theorem TableRow.aluGe (x : XOp) (d : DOp) (g : ArgOp) (r : RetOp) (k : StkOp) :
    TableRow.Statement (.aluGe x d g r k) :=
  row_of_unit 6 8 0 8 11 rfl rfl (place_a ⟨x, d, .fn .ge, g, r, k⟩) (by decide)
    (by decide : ((AluOp.fn .ge).bits AluMap.spec).toNat / 2 ^ 0 % 2 ^ 8 = 11)

theorem TableRow.aluRsv0C0F (lo : BitVec 2) (x : XOp) (d : DOp) (g : ArgOp) (r : RetOp) (k : StkOp) :
    TableRow.Statement (.aluRsv0C0F lo x d g r k) :=
  row_of_unit 6 8 2 6 3 rfl rfl (place_a ⟨x, d, .rsv0C0F lo, g, r, k⟩) (by decide)
    ((by decide : ∀ q : BitVec 2, ((AluOp.rsv0C0F q).bits AluMap.spec).toNat / 2 ^ 2 % 2 ^ 6 = 3) lo)

theorem TableRow.aluRsv101F (lo : BitVec 4) (x : XOp) (d : DOp) (g : ArgOp) (r : RetOp) (k : StkOp) :
    TableRow.Statement (.aluRsv101F lo x d g r k) :=
  row_of_unit 6 8 4 4 1 rfl rfl (place_a ⟨x, d, .rsv101F lo, g, r, k⟩) (by decide)
    ((by decide : ∀ q : BitVec 4, ((AluOp.rsv101F q).bits AluMap.spec).toNat / 2 ^ 4 % 2 ^ 4 = 1) lo)

theorem TableRow.aluRsv203F (lo : BitVec 5) (x : XOp) (d : DOp) (g : ArgOp) (r : RetOp) (k : StkOp) :
    TableRow.Statement (.aluRsv203F lo x d g r k) :=
  row_of_unit 6 8 5 3 1 rfl rfl (place_a ⟨x, d, .rsv203F lo, g, r, k⟩) (by decide)
    ((by decide : ∀ q : BitVec 5, ((AluOp.rsv203F q).bits AluMap.spec).toNat / 2 ^ 5 % 2 ^ 3 = 1) lo)

theorem TableRow.aluRsv407F (lo : BitVec 6) (x : XOp) (d : DOp) (g : ArgOp) (r : RetOp) (k : StkOp) :
    TableRow.Statement (.aluRsv407F lo x d g r k) :=
  row_of_unit 6 8 6 2 1 rfl rfl (place_a ⟨x, d, .rsv407F lo, g, r, k⟩) (by decide)
    ((by decide : ∀ q : BitVec 6, ((AluOp.rsv407F q).bits AluMap.spec).toNat / 2 ^ 6 % 2 ^ 2 = 1) lo)

theorem TableRow.aluRsv80FF (lo : BitVec 7) (x : XOp) (d : DOp) (g : ArgOp) (r : RetOp) (k : StkOp) :
    TableRow.Statement (.aluRsv80FF lo x d g r k) :=
  row_of_unit 6 8 7 1 1 rfl rfl (place_a ⟨x, d, .rsv80FF lo, g, r, k⟩) (by decide)
    ((by decide : ∀ q : BitVec 7, ((AluOp.rsv80FF q).bits AluMap.spec).toNat / 2 ^ 7 % 2 ^ 1 = 1) lo)

theorem TableRow.dsrcLoc (x : XOp) (a : AluOp) (g : ArgOp) (r : RetOp) (k : StkOp) :
    TableRow.Statement (.dsrcLoc x a g r k) :=
  row_of_unit 3 3 0 3 0 rfl rfl (place_d ⟨x, .loc, a, g, r, k⟩) (by decide)
    (by decide : (DOp.loc.bits).toNat / 2 ^ 0 % 2 ^ 3 = 0)

theorem TableRow.dsrcArg (x : XOp) (a : AluOp) (g : ArgOp) (r : RetOp) (k : StkOp) :
    TableRow.Statement (.dsrcArg x a g r k) :=
  row_of_unit 3 3 0 3 1 rfl rfl (place_d ⟨x, .arg, a, g, r, k⟩) (by decide)
    (by decide : (DOp.arg.bits).toNat / 2 ^ 0 % 2 ^ 3 = 1)

theorem TableRow.dsrcHeap (x : XOp) (a : AluOp) (g : ArgOp) (r : RetOp) (k : StkOp) :
    TableRow.Statement (.dsrcHeap x a g r k) :=
  row_of_unit 3 3 0 3 2 rfl rfl (place_d ⟨x, .heap, a, g, r, k⟩) (by decide)
    (by decide : (DOp.heap.bits).toNat / 2 ^ 0 % 2 ^ 3 = 2)

theorem TableRow.dsrcImm (x : XOp) (a : AluOp) (g : ArgOp) (r : RetOp) (k : StkOp) :
    TableRow.Statement (.dsrcImm x a g r k) :=
  row_of_unit 3 3 0 3 3 rfl rfl (place_d ⟨x, .imm, a, g, r, k⟩) (by decide)
    (by decide : (DOp.imm.bits).toNat / 2 ^ 0 % 2 ^ 3 = 3)

theorem TableRow.dsrcRet (x : XOp) (a : AluOp) (g : ArgOp) (r : RetOp) (k : StkOp) :
    TableRow.Statement (.dsrcRet x a g r k) :=
  row_of_unit 3 3 0 3 4 rfl rfl (place_d ⟨x, .ret, a, g, r, k⟩) (by decide)
    (by decide : (DOp.ret.bits).toNat / 2 ^ 0 % 2 ^ 3 = 4)

theorem TableRow.dsrcNid (x : XOp) (a : AluOp) (g : ArgOp) (r : RetOp) (k : StkOp) :
    TableRow.Statement (.dsrcNid x a g r k) :=
  row_of_unit 3 3 0 3 5 rfl rfl (place_d ⟨x, .nid, a, g, r, k⟩) (by decide)
    (by decide : (DOp.nid.bits).toNat / 2 ^ 0 % 2 ^ 3 = 5)

theorem TableRow.dsrcRsv67 (b : BitVec 1) (x : XOp) (a : AluOp) (g : ArgOp) (r : RetOp) (k : StkOp) :
    TableRow.Statement (.dsrcRsv67 b x a g r k) :=
  row_of_unit 3 3 1 2 3 rfl rfl (place_d ⟨x, .rsv b, a, g, r, k⟩) (by decide)
    ((by decide : ∀ q : BitVec 1, ((DOp.rsv q).bits).toNat / 2 ^ 1 % 2 ^ 2 = 3) b)

theorem TableRow.xHold (xsrc : BitVec 2) (d : DOp) (a : AluOp) (g : ArgOp) (r : RetOp) (k : StkOp) :
    TableRow.Statement (.xHold xsrc d a g r k) :=
  row_of_unit 0 3 2 1 0 rfl rfl (place_x ⟨.hold xsrc, d, a, g, r, k⟩) (by decide)
    ((by decide : ∀ q : BitVec 2, ((XOp.hold q).bits).toNat / 2 ^ 2 % 2 ^ 1 = 0) xsrc)

theorem TableRow.xInc (d : DOp) (a : AluOp) (g : ArgOp) (r : RetOp) (k : StkOp) :
    TableRow.Statement (.xInc d a g r k) :=
  row_of_unit 0 3 0 3 4 rfl rfl (place_x ⟨.inc, d, a, g, r, k⟩) (by decide)
    (by decide : (XOp.inc.bits).toNat / 2 ^ 0 % 2 ^ 3 = 4)

theorem TableRow.xLit (d : DOp) (a : AluOp) (g : ArgOp) (r : RetOp) (k : StkOp) :
    TableRow.Statement (.xLit d a g r k) :=
  row_of_unit 0 3 0 3 5 rfl rfl (place_x ⟨.lit, d, a, g, r, k⟩) (by decide)
    (by decide : (XOp.lit.bits).toNat / 2 ^ 0 % 2 ^ 3 = 5)

theorem TableRow.xItab (d : DOp) (a : AluOp) (g : ArgOp) (r : RetOp) (k : StkOp) :
    TableRow.Statement (.xItab d a g r k) :=
  row_of_unit 0 3 0 3 6 rfl rfl (place_x ⟨.itab, d, a, g, r, k⟩) (by decide)
    (by decide : (XOp.itab.bits).toNat / 2 ^ 0 % 2 ^ 3 = 6)

theorem TableRow.xCont (d : DOp) (a : AluOp) (g : ArgOp) (r : RetOp) (k : StkOp) :
    TableRow.Statement (.xCont d a g r k) :=
  row_of_unit 0 3 0 3 7 rfl rfl (place_x ⟨.cont, d, a, g, r, k⟩) (by decide)
    (by decide : (XOp.cont.bits).toNat / 2 ^ 0 % 2 ^ 3 = 7)

theorem TableRow.argWe (x : XOp) (d : DOp) (a : AluOp) (r : RetOp) (k : StkOp) :
    TableRow.Statement (.argWe x d a r k) :=
  row_of_unit 14 2 0 2 1 rfl rfl (place_g ⟨x, d, a, .we, r, k⟩) (by decide)
    (by decide : (ArgOp.we.bits).toNat / 2 ^ 0 % 2 ^ 2 = 1)

theorem TableRow.argSw (x : XOp) (d : DOp) (a : AluOp) (r : RetOp) (k : StkOp) :
    TableRow.Statement (.argSw x d a r k) :=
  row_of_unit 14 2 0 2 2 rfl rfl (place_g ⟨x, d, a, .sw, r, k⟩) (by decide)
    (by decide : (ArgOp.sw.bits).toNat / 2 ^ 0 % 2 ^ 2 = 2)

theorem TableRow.argWeSw (x : XOp) (d : DOp) (a : AluOp) (r : RetOp) (k : StkOp) :
    TableRow.Statement (.argWeSw x d a r k) :=
  row_of_unit 14 2 0 2 3 rfl rfl (place_g ⟨x, d, a, .weSw, r, k⟩) (by decide)
    (by decide : (ArgOp.weSw.bits).toNat / 2 ^ 0 % 2 ^ 2 = 3)

theorem TableRow.argHold (x : XOp) (d : DOp) (a : AluOp) (r : RetOp) (k : StkOp) :
    TableRow.Statement (.argHold x d a r k) :=
  row_of_unit 14 2 0 2 0 rfl rfl (place_g ⟨x, d, a, .hold, r, k⟩) (by decide)
    (by decide : (ArgOp.hold.bits).toNat / 2 ^ 0 % 2 ^ 2 = 0)

theorem TableRow.retLdDv (x : XOp) (d : DOp) (a : AluOp) (g : ArgOp) (k : StkOp) :
    TableRow.Statement (.retLdDv x d a g k) :=
  row_of_unit 16 2 0 2 2 rfl rfl (place_r ⟨x, d, a, g, .ldDv, k⟩) (by decide)
    (by decide : (RetOp.ldDv.bits).toNat / 2 ^ 0 % 2 ^ 2 = 2)

theorem TableRow.retLdAlu (x : XOp) (d : DOp) (a : AluOp) (g : ArgOp) (k : StkOp) :
    TableRow.Statement (.retLdAlu x d a g k) :=
  row_of_unit 16 2 0 2 3 rfl rfl (place_r ⟨x, d, a, g, .ldAlu, k⟩) (by decide)
    (by decide : (RetOp.ldAlu.bits).toNat / 2 ^ 0 % 2 ^ 2 = 3)

theorem TableRow.retHold (alu2ret : Bool) (x : XOp) (d : DOp) (a : AluOp) (g : ArgOp) (k : StkOp) :
    TableRow.Statement (.retHold alu2ret x d a g k) :=
  row_of_unit 16 2 1 1 0 rfl rfl (place_r ⟨x, d, a, g, .hold alu2ret, k⟩) (by decide)
    ((by decide : ∀ q : Bool, ((RetOp.hold q).bits).toNat / 2 ^ 1 % 2 ^ 1 = 0) alu2ret)

theorem TableRow.stkHold (x : XOp) (d : DOp) (a : AluOp) (g : ArgOp) (r : RetOp) :
    TableRow.Statement (.stkHold x d a g r) :=
  row_of_unit 18 4 0 4 0 rfl rfl (place_k ⟨x, d, a, g, r, .hold⟩) (by decide)
    (by decide : (StkOp.hold.bits).toNat / 2 ^ 0 % 2 ^ 4 = 0)

theorem TableRow.stkWv (x : XOp) (d : DOp) (a : AluOp) (g : ArgOp) (r : RetOp) :
    TableRow.Statement (.stkWv x d a g r) :=
  row_of_unit 18 4 0 4 4 rfl rfl (place_k ⟨x, d, a, g, r, .wv⟩) (by decide)
    (by decide : (StkOp.wv.bits).toNat / 2 ^ 0 % 2 ^ 4 = 4)

theorem TableRow.stkWc (x : XOp) (d : DOp) (a : AluOp) (g : ArgOp) (r : RetOp) :
    TableRow.Statement (.stkWc x d a g r) :=
  row_of_unit 18 4 0 4 8 rfl rfl (place_k ⟨x, d, a, g, r, .wc⟩) (by decide)
    (by decide : (StkOp.wc.bits).toNat / 2 ^ 0 % 2 ^ 4 = 8)

theorem TableRow.stkDec (x : XOp) (d : DOp) (a : AluOp) (g : ArgOp) (r : RetOp) :
    TableRow.Statement (.stkDec x d a g r) :=
  row_of_unit 18 4 0 4 1 rfl rfl (place_k ⟨x, d, a, g, r, .dec⟩) (by decide)
    (by decide : (StkOp.dec.bits).toNat / 2 ^ 0 % 2 ^ 4 = 1)

theorem TableRow.stkClr (x : XOp) (d : DOp) (a : AluOp) (g : ArgOp) (r : RetOp) :
    TableRow.Statement (.stkClr x d a g r) :=
  row_of_unit 18 4 0 4 2 rfl rfl (place_k ⟨x, d, a, g, r, .clr⟩) (by decide)
    (by decide : (StkOp.clr.bits).toNat / 2 ^ 0 % 2 ^ 4 = 2)

theorem TableRow.idle (xsrc : BitVec 2) (d : DOp) (a : AluOp) :
    TableRow.Statement (.idle xsrc d a) := by
  have hw : encode AluMap.spec (.idle xsrc d a) =
      (Ctl.toWord AluMap.spec ⟨.hold xsrc, d, a, .hold, .hold false, .hold⟩).toNat := rfl
  have hx := place_x ⟨.hold xsrc, d, a, .hold, .hold false, .hold⟩
  have hg := place_g ⟨.hold xsrc, d, a, .hold, .hold false, .hold⟩
  have hr := place_r ⟨.hold xsrc, d, a, .hold, .hold false, .hold⟩
  have hk := place_k ⟨.hold xsrc, d, a, .hold, .hold false, .hold⟩
  have hz : (XOp.hold xsrc).bits.toNat < 4 := (by decide : ∀ q : BitVec 2, (XOp.hold q).bits.toNat < 4) xsrc
  simp only [ArgOp.bits, RetOp.bits, StkOp.bits] at hx hg hr hk
  simp only [TableRow.Statement, tableFixed, hw, List.mem_cons, List.not_mem_nil, or_false, forall_eq_or_imp, forall_eq]
  simp at hg hr hk
  omega

end Sys2Proof.Laws
end

