-- ==== Sys2Proof/Tests/Slice0.lean ====
section
/-! SUPPORT. Tests. Expected values come from spec/95_test_vectors.md and from the encoding tables of
spec/30_encoding.md; each test names its vector. -/

namespace Sys2Proof.Tests

open Sys2Proof.Machine

/-! ### Well-formedness: an ill-formed term for each check -/

/-- The fields of 0x8B123456 (V-DEC, row 3). -/
def fields : InstrFields := ⟨0x11, 3, 0x056, 6, 0x56, 0x1234, 0x234, 0x56, 0x123456⟩

theorem test_wf_fields : WellFormed (.instr fields) = true := by decide
theorem test_wf_name : WellFormed (.instr { fields with name := 0x057 }) = false := by decide
theorem test_wf_argindex : WellFormed (.instr { fields with argindex := 5 }) = false := by decide
theorem test_wf_freevarindex : WellFormed (.instr { fields with freevarindex := 0x57 }) = false := by decide
theorem test_wf_litpattern : WellFormed (.instr { fields with litpattern := 0x1235 }) = false := by decide
theorem test_wf_conitable : WellFormed (.instr { fields with conitable := 0x235 }) = false := by decide
theorem test_wf_nInstrs : WellFormed (.instr { fields with nInstrs := 0x55 }) = false := by decide
theorem test_wf_conflict_of_one :
    WellFormed (.xInc .loc (.fn .and) .hold (.hold false) (.conflict 4)) = false ∧
    WellFormed (.xInc .loc (.fn .and) .hold (.hold false) (.conflict 0)) = false := by decide
theorem test_wf_conflict_of_two :
    WellFormed (.xInc .loc (.fn .and) .hold (.hold false) (.conflict 5)) = true := by decide

/-! ### Words written out from the encoding tables: every constructor is read from one.
The bits are s_wc s_wv s_clr s_dec, ret_ld alu2ret, arg_sw arg_we, aluop, dsrc_sel, xload xsrc (R114). -/

/-- V-DEC: instruction words. -/
theorem test_words_instr :
    decodeTableWord 32 0xFFFFFFFF = some (.instr ⟨0x1F, 7, 0x3FF, 7, 0xFF, 0xFFFF, 0x3FF, 0xFF, 0xFFFFFF⟩) ∧
    decodeTableWord 32 0x8B123456 = some (.instr fields) ∧
    decodeTableWord 32 0x5ACF00FF = some (.instr ⟨0x0B, 2, 0x0FF, 7, 0xFF, 0xCF00, 0x300, 0xFF, 0xCF00FF⟩) ∧
    decodeTableWord 32 0x01000002 = some (.instr ⟨0, 1, 2, 2, 2, 0, 0, 2, 2⟩) := by decide

/-- V-DEC: info-table words. -/
theorem test_words_info :
    decodeAs AluMap.spec .info32 0xFFFFFFFF = .ok (.info ⟨7, 0x7F, 0x7F, 0x7FFF⟩) ∧
    decodeAs AluMap.spec .info32 0x40418123 = .ok (.info ⟨2, 1, 3, 0x0123⟩) ∧
    decodeAs AluMap.spec .info32 0x80000000 = .ok (.info ⟨4, 0, 0, 0⟩) := ⟨rfl, rfl, rfl⟩

/-- V-DEC: continuation words. -/
theorem test_words_cont :
    decodeAs AluMap.spec .cont32 0x000142A3 = .ok (.cont ⟨5, 0x2A, 3⟩) ∧
    decodeAs AluMap.spec .cont32 0x1FFFFFFF = .ok (.cont ⟨0x7FFF, 0x3FF, 0xF⟩) ∧
    decodeAs AluMap.spec .cont32 0x20000000 = .error .contHighBits ∧
    encodeCont ⟨0x1234, 0x155, 0xA⟩ = 0x048D155A ∧ encodeCont ⟨1, 0, 0⟩ = 0x00004000 := ⟨rfl, rfl, rfl, by decide, by decide⟩

theorem test_words_alu :
    Instr.aluAnd .inc .imm .hold .ldAlu .wv ∈ readings AluMap.spec 0b0100110000000000011100 ∧
    Instr.aluOr .inc .imm .hold .ldAlu .wv ∈ readings AluMap.spec 0b0100110000000001011100 ∧
    Instr.aluNot .inc .imm .hold .ldAlu .wv ∈ readings AluMap.spec 0b0100110000000010011100 ∧
    Instr.aluXor .inc .imm .hold .ldAlu .wv ∈ readings AluMap.spec 0b0100110000000011011100 ∧
    Instr.aluAdd .inc .imm .hold .ldAlu .wv ∈ readings AluMap.spec 0b0100110000000100011100 ∧
    Instr.aluSub .inc .imm .hold .ldAlu .wv ∈ readings AluMap.spec 0b0100110000000101011100 ∧
    Instr.aluEq .inc .imm .hold .ldAlu .wv ∈ readings AluMap.spec 0b0100110000000110011100 ∧
    Instr.aluNe .inc .imm .hold .ldAlu .wv ∈ readings AluMap.spec 0b0100110000000111011100 ∧
    Instr.aluLt .inc .imm .hold .ldAlu .wv ∈ readings AluMap.spec 0b0100110000001000011100 ∧
    Instr.aluLe .inc .imm .hold .ldAlu .wv ∈ readings AluMap.spec 0b0100110000001001011100 ∧
    Instr.aluGt .inc .imm .hold .ldAlu .wv ∈ readings AluMap.spec 0b0100110000001010011100 ∧
    Instr.aluGe .inc .imm .hold .ldAlu .wv ∈ readings AluMap.spec 0b0100110000001011011100 := by decide

theorem test_words_alu_reserved :
    Instr.aluRsv0C0F 2 .inc .imm .hold .ldAlu .wv ∈ readings AluMap.spec 0b0100110000001110011100 ∧
    Instr.aluRsv101F 0 .inc .imm .hold .ldAlu .wv ∈ readings AluMap.spec 0b0100110000010000011100 ∧
    Instr.aluRsv203F 31 .inc .imm .hold .ldAlu .wv ∈ readings AluMap.spec 0b0100110000111111011100 ∧
    Instr.aluRsv407F 1 .inc .imm .hold .ldAlu .wv ∈ readings AluMap.spec 0b0100110001000001011100 ∧
    Instr.aluRsv80FF 127 .inc .imm .hold .ldAlu .wv ∈ readings AluMap.spec 0b0100110011111111011100 := by decide

theorem test_words_dsrc :
    Instr.dsrcLoc .lit (.fn .sub) .we .ldDv .hold ∈ readings AluMap.spec 0b0000100100000101000101 ∧
    Instr.dsrcArg .lit (.fn .sub) .we .ldDv .hold ∈ readings AluMap.spec 0b0000100100000101001101 ∧
    Instr.dsrcHeap .lit (.fn .sub) .we .ldDv .hold ∈ readings AluMap.spec 0b0000100100000101010101 ∧
    Instr.dsrcImm .lit (.fn .sub) .we .ldDv .hold ∈ readings AluMap.spec 0b0000100100000101011101 ∧
    Instr.dsrcRet .lit (.fn .sub) .we .ldDv .hold ∈ readings AluMap.spec 0b0000100100000101100101 ∧
    Instr.dsrcNid .lit (.fn .sub) .we .ldDv .hold ∈ readings AluMap.spec 0b0000100100000101101101 ∧
    Instr.dsrcRsv67 0 .lit (.fn .sub) .we .ldDv .hold ∈ readings AluMap.spec 0b0000100100000101110101 ∧
    Instr.dsrcRsv67 1 .lit (.fn .sub) .we .ldDv .hold ∈ readings AluMap.spec 0b0000100100000101111101 := by decide

theorem test_words_x :
    Instr.xHold 2 .nid (.fn .ge) .sw (.hold true) .clr ∈ readings AluMap.spec 0b0010011000001011101010 ∧
    Instr.xInc .nid (.fn .ge) .sw (.hold true) .clr ∈ readings AluMap.spec 0b0010011000001011101100 ∧
    Instr.xLit .nid (.fn .ge) .sw (.hold true) .clr ∈ readings AluMap.spec 0b0010011000001011101101 ∧
    Instr.xItab .nid (.fn .ge) .sw (.hold true) .clr ∈ readings AluMap.spec 0b0010011000001011101110 ∧
    Instr.xCont .nid (.fn .ge) .sw (.hold true) .clr ∈ readings AluMap.spec 0b0010011000001011101111 := by decide

theorem test_words_arg :
    Instr.argWe .itab .heap (.fn .eq) (.hold false) .dec ∈ readings AluMap.spec 0b0001000100000110010110 ∧
    Instr.argSw .itab .heap (.fn .eq) (.hold false) .dec ∈ readings AluMap.spec 0b0001001000000110010110 ∧
    Instr.argWeSw .itab .heap (.fn .eq) (.hold false) .dec ∈ readings AluMap.spec 0b0001001100000110010110 ∧
    Instr.argHold .itab .heap (.fn .eq) (.hold false) .dec ∈ readings AluMap.spec 0b0001000000000110010110 := by decide

theorem test_words_ret :
    Instr.retLdDv .cont .ret (.fn .not) .weSw .wc ∈ readings AluMap.spec 0b1000101100000010100111 ∧
    Instr.retLdAlu .cont .ret (.fn .not) .weSw .wc ∈ readings AluMap.spec 0b1000111100000010100111 ∧
    Instr.retHold true .cont .ret (.fn .not) .weSw .wc ∈ readings AluMap.spec 0b1000011100000010100111 ∧
    Instr.retHold false .cont .ret (.fn .not) .weSw .wc ∈ readings AluMap.spec 0b1000001100000010100111 := by decide

theorem test_words_stk :
    Instr.stkHold (.hold 0) .arg (.fn .or) .we .ldDv ∈ readings AluMap.spec 0b0000100100000001001000 ∧
    Instr.stkWv (.hold 0) .arg (.fn .or) .we .ldDv ∈ readings AluMap.spec 0b0100100100000001001000 ∧
    Instr.stkWc (.hold 0) .arg (.fn .or) .we .ldDv ∈ readings AluMap.spec 0b1000100100000001001000 ∧
    Instr.stkDec (.hold 0) .arg (.fn .or) .we .ldDv ∈ readings AluMap.spec 0b0001100100000001001000 ∧
    Instr.stkClr (.hold 0) .arg (.fn .or) .we .ldDv ∈ readings AluMap.spec 0b0010100100000001001000 := by decide

theorem test_words_idle :
    Instr.idle 3 (.rsv 1) (.rsv0C0F 0) ∈ readings AluMap.spec 0b0000000000001100111011 := by decide

/-- A vector of two stack controls is read by every unit but the stack (R228), and bits above 21 are refused. -/
theorem test_words_refused :
    (readings AluMap.spec 0x140000).length = 5 ∧
    decodeAs AluMap.spec .ctrl22 0x400000 = .error .controlHighBits := ⟨by decide, rfl⟩

/-- The control vectors of programs P1-P4 and the idioms of R118. -/
theorem test_idiom_vectors :
    idiomNext.toWord AluMap.spec = 0x000004 ∧ idiomJump.toWord AluMap.spec = 0x000005 ∧
    idiomEnter.toWord AluMap.spec = 0x000006 ∧ (idiomPushV .ret).toWord AluMap.spec = 0x100020 ∧
    idiomPushK.toWord AluMap.spec = 0x200000 ∧ idiomPop.toWord AluMap.spec = 0x040000 ∧
    idiomReturn.toWord AluMap.spec = 0x040007 ∧ (idiomArg .imm).toWord AluMap.spec = 0x004018 ∧
    idiomCallSw.toWord AluMap.spec = 0x008000 ∧ (idiomLdRet .arg).toWord AluMap.spec = 0x020008 ∧
    (idiomOp .sub).toWord AluMap.spec = 0x030140 := by decide

/-! ### One cycle (95_test_vectors.md L2) -/

/-- The outcome of one cycle of `s` under the inputs `inp`. -/
def cyc (s : State) (inp : CycleIn) : Host.Outcome State Fault Refusal := step { s with stim := [inp] }

/-- The control vector `cv` with every data input 0. -/
def vec (cv : BitVec 22) : CycleIn := CycleIn.ofVector cv

/-- The outcome is a next state of which `p` holds. -/
def ends (o : Host.Outcome State Fault Refusal) (p : State → Bool) : Bool :=
  match o with
  | .next t => p t
  | _ => false

/-- The code of the fault an outcome is, 0 if it is none. -/
def code (o : Host.Outcome State Fault Refusal) : Nat :=
  match o with
  | .fault f => faultCode f
  | _ => 0

/-- The reset state with the word `w` at address `a` of the instruction memory. -/
def prog (a : Nat) (w : Word) : State := { State.reset with imem := [(a, w)] }

/-- A bank whose first two slots hold `a` and `b`, and no other is written. -/
def two (a b : Word) : Bank := (Bank.reset.set 0 ⟨a, true⟩).set 1 ⟨b, true⟩

/-- The reset state with A = `a` and B = `b` bound. -/
def operands (a b : Word) : State := { State.reset with bank1 := two a b }

/-- The reset state with the stack slot `n` on top, holding `w` with tag `t`. -/
def top (n : SAddr) (w : Word) (t : SlotTag) : State := { State.reset with sp := n, stk := [(n.toNat, ⟨w, t⟩)] }

theorem test_M1_loc : ends (cyc .reset { vec 0x020000 with localsOut := 0x89ABCDEF }) (·.ret == 0x89ABCDEF) = true := by decide
theorem test_M2_heap : ends (cyc .reset { vec 0x020010 with heapOut := 0xDEADBEEF }) (·.ret == 0xDEADBEEF) = true := by decide
theorem test_M3_imm : ends (cyc (prog 0 0xFFFFFFFF) (vec 0x020018)) (·.ret == 0x00FFFFFF) = true := by decide
theorem test_M4_ret : ends (cyc { State.reset with ret := 99 } (vec 0x020020)) (·.ret == 99) = true := by decide
theorem test_M5_nid : ends (cyc .reset { vec 0x020028 with newId := 0x2AB }) (·.ret == 0x2AB) = true := by decide
theorem test_M6_M7_reserved :
    ends (cyc { State.reset with ret := 99 } (vec 0x020030)) (·.ret == 0) = true ∧
    ends (cyc { State.reset with ret := 99 } { vec 0x020038 with localsOut := 5 }) (·.ret == 0) = true := by decide
theorem test_M8_arg_unwritten : code (cyc .reset (vec 0x020008)) = 5 := by decide
theorem test_M9_arg_unused : ends (cyc .reset (vec 0x000008)) (· == State.reset) = true := by decide
theorem test_M10_arg :
    ends (cyc { prog 0 0x01000002 with bstate := true, bank0 := Bank.reset.set 2 ⟨0x55, true⟩ } (vec 0x020008))
      (·.ret == 0x55) = true := by decide

theorem test_X1_X2_inc :
    ends (cyc { State.reset with exptr := 5 } (vec 0x4)) (·.exptr == 6) = true ∧
    ends (cyc { State.reset with exptr := 0x7FFF } (vec 0x4)) (·.exptr == 0) = true := by decide
theorem test_X3_lit :
    ends (cyc { prog 0x1234 0xFFFFFFAB with exptr := 0x1234 } (vec 0x5)) (·.exptr == 0x00AB) = true := by decide
theorem test_X4_hold : ends (cyc { State.reset with exptr := 5 } (vec 0x1)) (·.exptr == 5) = true := by decide
theorem test_X5_itab :
    ends (cyc { State.reset with itab := [(5, 0xFFFFFFFF)] } { vec 0x6 with heapOut := 0xFFFFFC05 })
      (·.exptr == 0x7FFF) = true := by decide
theorem test_X6_cont :
    ends (cyc (top 1 0x048D155A .cont) (vec 0x7)) (fun t => t.exptr == 0x1234 && t.sp == 1) = true := by decide
theorem test_X7_return :
    ends (cyc (top 1 0x000142A3 .cont) (vec 0x40007)) (fun t => t.exptr == 5 && t.sp == 0) = true := by decide
theorem test_X8_X9_value_as_continuation :
    code (cyc (top 1 0x000142A3 .value) (vec 0x7)) = 6 ∧
    ends (cyc { top 1 0x000142A3 .value with cfg := { defaultParams with strictContTag := false } } (vec 0x7))
      (·.exptr == 5) = true := by decide
theorem test_X10_X11_unwritten_top :
    code (cyc .reset (vec 0x7)) = 5 ∧ ends (cyc .reset (vec 0x3)) (· == State.reset) = true := by decide
theorem test_X12_fetch : fetchFields { prog 3 0x8B123456 with exptr := 3 } = fields := by decide

theorem test_S1_push_value :
    ends (cyc .reset { vec 0x100028 with newId := 0x3FF })
      (fun t => t.sp == 1 && t.stk == [(1, ⟨0x3FF, .value⟩)]) = true := by decide
theorem test_S2_push_continuation :
    ends (cyc { State.reset with exptr := 0x1234, sp := 2 } { vec 0x200000 with curClosure := 0x155, nLocals := 0xA })
      (fun t => t.sp == 3 && t.stk == [(3, ⟨0x048D155A, .cont⟩)]) = true := by decide
theorem test_S3_S4_decrement :
    ends (cyc (top 2 7 .value) (vec 0x040000)) (fun t => t.sp == 1 && t.stk == [(2, ⟨7, .value⟩)]) = true ∧
    code (cyc .reset (vec 0x040000)) = 3 := by decide
theorem test_S5_S6_S7_clear :
    ends (cyc { State.reset with sp := 3 } { vec 0x080000 with nLocals := 3 }) (·.sp == 0) = true ∧
    ends (cyc { State.reset with sp := 3 } { vec 0x080000 with nLocals := 0 }) (·.sp == 3) = true ∧
    code (cyc { State.reset with sp := 2 } { vec 0x080000 with nLocals := 3 }) = 3 := by decide
theorem test_S8_last_slot :
    ends (cyc { prog 0 0x03FFFFFF with sp := 0x7FFE } (vec 0x100018))
      (fun t => t.sp == 0x7FFF && t.stk == [(0x7FFF, ⟨0x00FFFFFF, .value⟩)]) = true := by decide
theorem test_S9_S10_overflow :
    code (cyc { State.reset with sp := 0x7FFF } (vec 0x100000)) = 2 ∧
    code (cyc { State.reset with sp := 0x7FFF } (vec 0x200000)) = 2 := by decide
theorem test_S11_S12_conflict :
    code (cyc { State.reset with sp := 1 } (vec 0x140000)) = 1 ∧ code (cyc .reset (vec 0x300000)) = 1 := by decide
theorem test_S13_return_with_push :
    ends (cyc { top 1 0x00004000 .cont with imem := [(0, 7)] } (vec 0x10001F))
      (fun t => t.exptr == 1 && t.sp == 2 && t.stk == [(1, ⟨0x4000, .cont⟩), (2, ⟨7, .value⟩)]) = true := by decide
theorem test_S14_stale_overwritten :
    ends (cyc { top 2 0x22 .value with sp := 1, imem := [(0, 0x03000009)] } (vec 0x100018))
      (fun t => t.sp == 2 && t.stk == [(2, ⟨9, .value⟩)]) = true := by decide

theorem test_A1_write :
    ends (cyc .reset { vec 0x4000 with localsOut := 9 })
      (fun t => argRead t false 0 == 9 && t.acount == 1 && t.awrites == 1) = true := by decide
theorem test_A2_A3_eighth_and_ninth :
    ends (cyc { State.reset with acount := 7, awrites := 7 } { vec 0x4000 with localsOut := 9 })
      (fun t => argRead t false 7 == 9 && t.acount == 0 && t.awrites == 8) = true ∧
    code (cyc { State.reset with awrites := 8 } { vec 0x4000 with localsOut := 9 }) = 4 := by decide
theorem test_A4_switch :
    ends (cyc { State.reset with bstate := true, acount := 3, awrites := 3 } (vec 0x8000))
      (fun t => !t.bstate && t.acount == 0 && t.awrites == 0) = true := by decide
theorem test_A5_write_with_switch :
    ends (cyc { State.reset with acount := 2, awrites := 2, bank0 := two 10 11 } { vec 0xC000 with localsOut := 12 })
      (fun t => argRead t false 2 == 12 && t.bstate && t.acount == 0) = true := by decide
theorem test_A7_A8_read_bank :
    ends (cyc { prog 0 3 with bank1 := Bank.reset.set 3 ⟨0x77, true⟩, bank0 := Bank.reset.set 3 ⟨0x11, true⟩ }
      (vec 0x020008)) (·.ret == 0x77) = true ∧
    ends (cyc { prog 0 3 with bank1 := Bank.reset.set 3 ⟨0x77, true⟩, bank0 := Bank.reset.set 3 ⟨0x11, true⟩ }
      (vec 0x004008)) (fun t => argRead t false 0 == 0x77) = true := by decide

/-- The operand pairs of V-ALU. -/
def pairs : List (Word × Word) :=
  [(0xFFFFFFFF, 1), (0, 1), (0x80000000, 0x80000000), (0x12345678, 0x0F0F0F0F), (7, 5), (0x7FFFFFFF, 0x80000000), (0, 0)]

/-- The column of V-ALU for one operation. -/
def column (signed : Bool) (f : AluFn) : List Word := pairs.map fun p => aluOut signed (.fn f) p.1 p.2

theorem test_V_and : column false .and = [1, 0, 0x80000000, 0x02040608, 5, 0, 0] := by decide
theorem test_V_or : column false .or = [0xFFFFFFFF, 1, 0x80000000, 0x1F3F5F7F, 7, 0xFFFFFFFF, 0] := by decide
theorem test_V_not :
    column false .not = [0, 0xFFFFFFFF, 0x7FFFFFFF, 0xEDCBA987, 0xFFFFFFF8, 0x80000000, 0xFFFFFFFF] := by decide
theorem test_V_xor : column false .xor = [0xFFFFFFFE, 1, 0, 0x1D3B5977, 2, 0xFFFFFFFF, 0] := by decide
theorem test_V_add : column false .add = [0, 1, 0, 0x21436587, 0xC, 0xFFFFFFFF, 0] := by decide
theorem test_V_sub : column false .sub = [0xFFFFFFFE, 0xFFFFFFFF, 0, 0x03254769, 2, 0xFFFFFFFF, 0] := by decide
theorem test_V_eq : column false .eq = [0, 0, 1, 0, 0, 0, 1] := by decide
theorem test_V_ne : column false .ne = [1, 1, 0, 1, 1, 1, 0] := by decide
theorem test_V_lt : column false .lt = [0, 1, 0, 0, 0, 1, 0] := by decide
theorem test_V_le : column false .le = [0, 1, 1, 0, 0, 1, 1] := by decide
theorem test_V_gt : column false .gt = [1, 0, 0, 1, 1, 0, 0] := by decide
theorem test_V_ge : column false .ge = [1, 0, 1, 1, 1, 0, 1] := by decide
/-- The signed table, rows 1 and 6. -/
theorem test_V_signed :
    [AluFn.lt, .le, .gt, .ge].map (fun f => (column true f).getD 0 9) = [1, 1, 0, 0] ∧
    [AluFn.lt, .le, .gt, .ge].map (fun f => (column true f).getD 5 9) = [0, 0, 1, 1] := by decide

theorem test_P1_c2_c3 :
    ends (cyc (operands 7 5) (vec 0x030104)) (fun t => t.ret == 12 && t.exptr == 1) = true ∧
    ends (cyc (operands 7 5) (vec 0x030140)) (·.ret == 2) = true := by decide
theorem test_U1_U2_U3_reserved :
    ends (cyc (operands 6 7) (vec 0x030300)) (·.ret == 0) = true ∧
    ends (cyc (operands 6 7) (vec 0x030400)) (·.ret == 0) = true ∧
    ends (cyc (operands 6 7) (vec 0x033FC0)) (·.ret == 0) = true := by decide
theorem test_U4_U5_unwritten_operands :
    code (cyc .reset (vec 0x030100)) = 5 ∧ ends (cyc .reset (vec 0x030400)) (·.ret == 0) = true := by decide
theorem test_U6_U7_not_reads_A_only :
    ends (cyc { State.reset with bstate := true, bank0 := Bank.reset.set 0 ⟨0, true⟩ } (vec 0x030080))
      (·.ret == 0xFFFFFFFF) = true ∧
    code (cyc { State.reset with bstate := true, bank0 := Bank.reset.set 0 ⟨0, true⟩ } (vec 0x030000)) = 5 := by decide
theorem test_U8_hold : ends (cyc { State.reset with ret := 99 } (vec 0x010100)) (·.ret == 99) = true := by decide

theorem test_K1_idle :
    ends (cyc { top 1 5 .value with exptr := 3, ret := 4 } (vec 0x00011A))
      (· == { top 1 5 .value with exptr := 3, ret := 4 }) = true := by decide
theorem test_K2_K3_K4_first_check :
    code (cyc { State.reset with sp := 0x7FFF } (vec 0x140000)) = 1 ∧
    code (cyc { State.reset with awrites := 8 } (vec 0x044000)) = 3 ∧
    code (cyc .reset (vec 0x00400F)) = 5 := by decide

/-- W7: a configuration with W_ID = 25 or W_IT = 17 is refused. -/
theorem test_W7_configuration :
    (match boot { Widths.fixed with wId := 25 } defaultParams [] [] with | .error e => e == .idTooWide | .ok _ => false)
      = true ∧
    (match boot { Widths.fixed with wIt := 17 } defaultParams [] [] with | .error e => e == .itTooWide | .ok _ => false)
      = true := by decide

/-- The three rows of 32 bits, each in the cycle that uses it: a literal jump, an entry, a push of a record. -/
theorem test_word_rows :
    ends (exec (.instr fields) { State.reset with stim := [vec 0x5] }) (·.exptr == 0x56) = true ∧
    ends (exec (.info ⟨2, 1, 3, 0x0123⟩) { State.reset with stim := [vec 0x6] }) (·.exptr == 0x0123) = true ∧
    ends (exec (.cont ⟨5, 0x2A, 3⟩) { State.reset with stim := [vec 0x200000] })
      (fun t => t.stk == [(1, ⟨0x000142A3, .cont⟩)]) = true := by decide

/-- A word placed from outside is the one the next step runs; a run with no cycle is at its end. -/
theorem test_placed_words :
    ends (step (State.reset.withFetchWord 24 0x4)) (·.exptr == 1) = true ∧
    (State.reset.withFetchWord 32 0x8B123456).imem = [(0, 0x8B123456)] ∧
    ends (step (State.reset.withFetchWord 32 0x8B123456)) (·.exptr == 0) = true ∧
    step State.reset = .refused .noCycle := ⟨by decide, by decide, by decide, rfl⟩

/-! ### Witnesses: states that meet the hypotheses of the obligations -/

/-- The inputs of the witness state: a control vector `cv` and `n_locals` = 5. -/
def busyIn (cv : BitVec 22) : CycleIn := { vec cv with nLocals := 5, curClosure := 0x2A }

/-- A bank with every slot written. -/
def full : Bank := #v[⟨1, true⟩, ⟨2, true⟩, ⟨3, true⟩, ⟨4, true⟩, ⟨5, true⟩, ⟨6, true⟩, ⟨7, true⟩, ⟨8, true⟩]

/-- A state in the middle of a run: five slots pushed, a continuation on top, two arguments assembled. -/
def busy (stim : List CycleIn) : State :=
  { State.reset with
    exptr := 0x10, sp := 5, bank0 := full, bank1 := full, acount := 2, awrites := 2, ret := 9, stim := stim
    stk := [(1, ⟨1, .value⟩), (2, ⟨2, .value⟩), (3, ⟨3, .value⟩), (4, ⟨4, .value⟩), (5, ⟨0x000142A3, .cont⟩)] }

/-- The inputs of the obligations about rows: `busy` meets their hypotheses for every row and every operand with at
most one stack control. -/
theorem test_witness_every_row (f : InstrFields) (c : Ctl) (cv : BitVec 22) (rest : List CycleIn)
    (h : ∀ b, c.k ≠ .conflict b) :
    (busy (busyIn cv :: rest)).stim = busyIn cv :: rest ∧ CycleOk f c (busyIn cv) (busy (busyIn cv :: rest)) := by
  refine ⟨rfl, ⟨h, fun _ => by simp [busy], fun _ => by simp [busy], fun _ => by simp [busy, busyIn],
    fun _ => by simp [busy], fun _ _ => ?_, fun _ _ => rfl, fun _ _ => rfl, fun _ => ?_, fun _ _ => ?_⟩⟩
  · have all : ∀ i : BitVec 3, (full[i.toNat]'i.isLt).written = true := by decide
    exact all f.argindex
  · simp only [stkTag, busy]
    decide
  · simp only [stkTag, busy]
    decide

/-- The obligations with hypotheses on a step: `busy` completes a push, a continuation, both pops, a hold, a flip. -/
theorem test_witness_step_completes :
    (∃ t, step (busy [busyIn 0x100000]) = .next t) ∧ (∃ t, step (busy [busyIn 0x200000]) = .next t) ∧
    (∃ t, step (busy [busyIn 0x040000]) = .next t) ∧ (∃ t, step (busy [busyIn 0x080000]) = .next t) ∧
    (∃ t, step (busy [busyIn 0]) = .next t) ∧ (∃ t, step (busy [busyIn 0x03C000]) = .next t) :=
  ⟨⟨_, rfl⟩, ⟨_, rfl⟩, ⟨_, rfl⟩, ⟨_, rfl⟩, ⟨_, rfl⟩, ⟨_, rfl⟩⟩

/-- ReadsSeeTheCommittedState and OutputsAreWhatTheCycleUses: a cycle for each clause. -/
theorem test_witness_committed_state :
    ((ctlOf (busy []) (busyIn 0x100007)).x = .cont ∧ (ctlOf (busy []) (busyIn 0x100007)).k = .wv ∧
      ∃ t, step (busy [busyIn 0x100007]) = .next t) ∧
    ((ctlOf (busy []) (busyIn 0x038100)).r = .ldAlu ∧ (ctlOf (busy []) (busyIn 0x038100)).g = .sw ∧
      ∃ t, step (busy [busyIn 0x038100]) = .next t) ∧
    ((ctlOf (busy []) (busyIn 0x028008)).r = .ldDv ∧ (ctlOf (busy []) (busyIn 0x028008)).d = .arg ∧
      (ctlOf (busy []) (busyIn 0x028008)).g = .sw ∧ ∃ t, step (busy [busyIn 0x028008]) = .next t) ∧
    ((ctlOf (busy []) (busyIn 0x130020)).k = .wv ∧ (ctlOf (busy []) (busyIn 0x130020)).d = .ret ∧
      (ctlOf (busy []) (busyIn 0x130020)).r = .ldAlu ∧ ∃ t, step (busy [busyIn 0x130020]) = .next t) ∧
    ((ctlOf (busy []) (busyIn 0x6)).x = .itab ∧ ∃ t, step (busy [busyIn 0x6]) = .next t) :=
  ⟨⟨by decide, by decide, _, rfl⟩, ⟨by decide, by decide, _, rfl⟩, ⟨by decide, by decide, by decide, _, rfl⟩,
    ⟨by decide, by decide, by decide, _, rfl⟩, ⟨by decide, _, rfl⟩⟩

/-- ReadsSeeTheCommittedState, the remaining clauses: a jump with a push of the immediate, an argument write of the
return register with a load of it, one of a bound argument with a switch, a push of the return register with a reload of
it, a push of a continuation with an increment. Of OutputsAreWhatTheCycleUses: a written slot of the read bank. -/
theorem test_witness_committed_data :
    ((ctlOf (busy []) (busyIn 0x10001D)).x = .lit ∧ (ctlOf (busy []) (busyIn 0x10001D)).d = .imm ∧
      (ctlOf (busy []) (busyIn 0x10001D)).k = .wv ∧ ∃ t, step (busy [busyIn 0x10001D]) = .next t) ∧
    ((ctlOf (busy []) (busyIn 0x034120)).g = .we ∧ (ctlOf (busy []) (busyIn 0x034120)).d = .ret ∧
      (ctlOf (busy []) (busyIn 0x034120)).r = .ldAlu ∧ ∃ t, step (busy [busyIn 0x034120]) = .next t) ∧
    ((ctlOf (busy []) (busyIn 0x00C008)).g = .weSw ∧ (ctlOf (busy []) (busyIn 0x00C008)).d = .arg ∧
      ∃ t, step (busy [busyIn 0x00C008]) = .next t) ∧
    ((ctlOf (busy []) (busyIn 0x120020)).k = .wv ∧ (ctlOf (busy []) (busyIn 0x120020)).r = .ldDv ∧
      (ctlOf (busy []) (busyIn 0x120020)).d = .ret ∧ ∃ t, step (busy [busyIn 0x120020]) = .next t) ∧
    ((ctlOf (busy []) (busyIn 0x200004)).k = .wc ∧ (ctlOf (busy []) (busyIn 0x200004)).x = .inc ∧
      ∃ t, step (busy [busyIn 0x200004]) = .next t) ∧
    argWritten (busy []) (!(busy []).bstate) 0 = true :=
  ⟨⟨by decide, by decide, by decide, _, rfl⟩, ⟨by decide, by decide, by decide, _, rfl⟩, ⟨by decide, by decide, _, rfl⟩,
    ⟨by decide, by decide, by decide, _, rfl⟩, ⟨by decide, by decide, _, rfl⟩, rfl⟩

/-- The trap clauses: an unwritten slot, an unwritten top, a value on top, nine writes, the two ends of the stack. -/
theorem test_witness_traps :
    argWritten { State.reset with stim := [vec 0] } true 0 = false ∧
    stkTag { State.reset with stim := [vec 0] } 0 = .unwritten ∧
    stkTag (top 1 5 .value) 1 = .value ∧ (top 1 5 .value).cfg.strictContTag = true ∧
    { top 1 5 .value with cfg := { defaultParams with strictContTag := false } }.cfg.strictContTag = false ∧
    { State.reset with awrites := 8, stim := [vec 0] }.awrites = 8 ∧
    { State.reset with sp := 0x7FFF, stim := [vec 0] }.sp = 0x7FFF ∧
    { State.reset with stim := [busyIn 0] }.sp.toNat < (busyIn 0).nLocals.toNat := by decide

/-- FaultRecordsTheStateOfItsCycle and OnlyTheEndOfTheRunIsRefused: an instruction that faults, one with no cycle. -/
theorem test_witness_fault_and_refusal :
    exec (.stkDec (.hold 0) .loc (.fn .and) .hold (.hold false)) { State.reset with stim := [vec 0] } =
      .fault (.stackUnderflow { State.reset with stim := [vec 0] }) ∧
    exec (.idle 0 .loc (.fn .and)) State.reset = .refused .noCycle := ⟨rfl, rfl⟩

/-- StackHold: a stack-hold row that faults, with a code above 3. -/
theorem test_witness_stack_hold_fault :
    exec (.stkHold .cont .loc (.fn .and) .hold (.hold false)) { State.reset with stim := [vec 0] } =
      .fault (.unwrittenRead { State.reset with stim := [vec 0] }) := rfl

/-- The encoding obligations: a well-formed word, an assignment of the codes, a word too high for each format, a
row of a vector. -/
theorem test_witness_encoding :
    WellFormed (.instr fields) = true ∧ AluMap.spec.toList.Nodup ∧
    2 ^ 29 ≤ 0x20000000 ∧ 0x20000000 < 2 ^ 32 ∧ 2 ^ 22 ≤ 0x400000 ∧
    Instr.xInc .loc (.fn .and) .hold (.hold false) .hold ∈ readings AluMap.spec 0x4 := by decide

/-- The boot obligations: a width above each bound, an image that loads. -/
theorem test_witness_boot :
    24 < { Widths.fixed with wId := 25 }.wId ∧ Widths.fixed.wId ≤ 24 ∧ 16 < { Widths.fixed with wIt := 17 }.wIt ∧
    ∃ s, boot Widths.fixed defaultParams [(2, 7), (2, 8)] [(5, 0x40410200)] = .ok s :=
  ⟨by decide, by decide, by decide, _, rfl⟩

/-- The invariants hold of `busy` after a flip, and of the reset state. -/
theorem test_witness_memories : MemWf (busy [busyIn 0]) := by simp only [busy]; decide

theorem test_witness_argument_counter : ArgInv (busy [busyIn 0]) := by
  refine ⟨by simp [busy], by simp only [busy]; decide, ?_⟩
  simp only [busy, argWritten, bank]
  decide

theorem test_witness_stack_discipline : StackInv (busy [busyIn 0]) := by
  refine ⟨by simp only [busy, stkTag]; decide, fun a ha hb => ?_, fun a h => ?_⟩
  · have hn : a.toNat ≠ 0 := fun h => ha (BitVec.eq_of_toNat_eq h)
    have hb' : a.toNat ≤ 5 := hb
    have hc : a.toNat = 1 ∨ a.toNat = 2 ∨ a.toNat = 3 ∨ a.toNat = 4 ∨ a.toNat = 5 := by
      clear hb; omega
    rcases hc with h | h | h | h | h <;> simp [busy, stkTag, Memory.lookup, h]
  · by_cases h5 : a.toNat = 5
    · simp [busy, stkRead, Memory.lookup, h5]
    · exfalso
      revert h
      simp only [busy, stkTag, Memory.lookup, h5, if_false]
      by_cases h1 : a.toNat = 1 <;> by_cases h2 : a.toNat = 2 <;> by_cases h3 : a.toNat = 3 <;>
        by_cases h4 : a.toNat = 4 <;> simp_all

/-- ShadowStateNeverChangesAValue: two states that differ in a tag, a flag and the write count. -/
theorem test_witness_shadow :
    SameHardware { busy [busyIn 0] with awrites := 3 } (busy [busyIn 0]) ∧
    (∃ t, step { busy [busyIn 0] with awrites := 3 } = .next t) ∧ ∃ t, step (busy [busyIn 0]) = .next t :=
  ⟨⟨rfl, rfl, fun _ => rfl, fun b i => by cases b <;> rfl, rfl, rfl, rfl, rfl, rfl, rfl, rfl⟩, ⟨_, rfl⟩, ⟨_, rfl⟩⟩

/-- UnusedInputsDoNotMatter and UnusedSelectorsDoNotMatter: inputs, and rows, that differ where nothing is used. -/
theorem test_witness_unused :
    (∃ t, step (busy [busyIn 0x4]) = .next t) ∧ (busyIn 0x4).cv = { busyIn 0x4 with localsOut := 3, newId := 4 }.cv ∧
    (ctlOf (busy []) (busyIn 0x4)).k = .hold ∧
    (Instr.idle 0 .loc (.fn .and)).ctl = some quiet ∧
    (Instr.idle 3 .nid (.fn .ge)).ctl = some ⟨.hold 3, .nid, .fn .ge, .hold, .hold false, .hold⟩ :=
  ⟨⟨_, rfl⟩, rfl, by decide, rfl, rfl⟩

/-- OtherDecodedFieldsDoNotMatter: two instruction words that differ in the opcode only. -/
theorem test_witness_other_fields :
    { fields with opcode := 3 }.argindex = fields.argindex ∧ { fields with opcode := 3 }.nInstrs = fields.nInstrs ∧
    { fields with opcode := 3 }.imm = fields.imm := by decide

/-- ContinuationRoundTrip: a push of a continuation, then RETURN. -/
theorem test_witness_continuation_round_trip :
    (busy [busyIn 0x200005, busyIn 0x040007]).cfg.contExptrOffset = 0 ∧
    (ctlOf (busy []) (busyIn 0x200005)).k = .wc ∧ (∃ t, step (busy [busyIn 0x200005, busyIn 0x040007]) = .next t) ∧
    ctlOf (busy []) (busyIn 0x040007) = ⟨.cont, .loc, .fn .and, .hold, .hold false, .dec⟩ :=
  ⟨rfl, by decide, ⟨_, rfl⟩, by decide⟩

/-- ArgumentBankRoundTrip: the reset state with the cycles of three words (W6), and with none. -/
theorem test_witness_argument_round_trip (vs : List Word) (h : vs = [1, 2, 3] ∨ vs = [] ∨ vs = [1, 2, 3, 4, 5, 6, 7, 8])
    (s : State)
    (hs : s = { State.reset with
      stim := vs.map (fun v => { vec 0x4000 with localsOut := v }) ++ vec 0x8000 :: [] }) :
    vs.length ≤ 8 ∧ s.awrites = 0 ∧ s.acount = 0 ∧
      s.stim = vs.map (fun v => { CycleIn.ofVector 0x4000 with localsOut := v }) ++ CycleIn.ofVector 0x8000 :: [] := by
  subst hs
  rcases h with h | h | h <;> subst h <;> decide

/-- The rows of 32 bits: a cycle of the host for each clause (literal jump; immediate, bound argument, record). -/
theorem test_witness_word_rows :
    (ctlOf (busy []) (busyIn 0x020005)).x = .lit ∧ (ctlOf (busy []) (busyIn 0x100018)).d = .imm ∧
    (ctlOf (busy []) (busyIn 0x100008)).d = .arg ∧ (ctlOf (busy []) (busyIn 0x6)).x = .itab ∧
    (ctlOf (busy []) (busyIn 0x200000)).k = .wc ∧ (ctlOf (busy []) (busyIn 0x100000)).k ≠ .wc := by decide

end Sys2Proof.Tests
end

/-! The info-table entry (30_encoding.md R102): its layout as a number, and that `decodeInfo` and `encodeInfo` are
inverse to each other. -/

section
namespace Sys2Proof

/-- Packing two fields side by side weighs the upper one by the lower one's width. -/
theorem toNat_append_eq_mul_add {m n : Nat} (x : BitVec m) (y : BitVec n) :
    (x ++ y).toNat = x.toNat * 2 ^ n + y.toNat := by
  rw [BitVec.toNat_append, ← Nat.shiftLeft_add_eq_or_of_lt y.isLt, Nat.shiftLeft_eq]

theorem encodeInfo_toNat (e : InfoFields) :
    (encodeInfo e).toNat =
      e.arity.toNat * 2 ^ 29 + e.nptrs.toNat * 2 ^ 22 + e.nvars.toNat * 2 ^ 15 + e.entryCode.toNat := by
  simp only [encodeInfo, toNat_append_eq_mul_add]
  ring

theorem decodeInfo_toNat (w : Word) :
    (decodeInfo w).arity.toNat = w.toNat / 2 ^ 29 ∧
    (decodeInfo w).nptrs.toNat = w.toNat / 2 ^ 22 % 2 ^ 7 ∧
    (decodeInfo w).nvars.toNat = w.toNat / 2 ^ 15 % 2 ^ 7 ∧
    (decodeInfo w).entryCode.toNat = w.toNat % 2 ^ 15 := by
  simp only [decodeInfo, BitVec.extractLsb'_toNat, Nat.shiftRight_eq_div_pow,
    pow_zero, Nat.div_one, and_true]
  exact Nat.mod_eq_of_lt (by omega)

/-- Entries are equal when their fields are equal as numbers. -/
theorem InfoFields.eq_of_toNat_eq {a b : InfoFields} (harity : a.arity.toNat = b.arity.toNat)
    (hnptrs : a.nptrs.toNat = b.nptrs.toNat) (hnvars : a.nvars.toNat = b.nvars.toNat)
    (hentry : a.entryCode.toNat = b.entryCode.toNat) : a = b := by
  cases a
  cases b
  simp only [InfoFields.mk.injEq]
  exact ⟨BitVec.eq_of_toNat_eq harity, BitVec.eq_of_toNat_eq hnptrs, BitVec.eq_of_toNat_eq hnvars,
    BitVec.eq_of_toNat_eq hentry⟩

/-- No two fields overlap: each is read back. -/
@[simp] theorem decodeInfo_encodeInfo (e : InfoFields) : decodeInfo (encodeInfo e) = e := by
  obtain ⟨harity, hnptrs, hnvars, hentry⟩ := decodeInfo_toNat (encodeInfo e)
  rw [encodeInfo_toNat] at harity hnptrs hnvars hentry
  apply InfoFields.eq_of_toNat_eq <;> omega

/-- The fields leave no gap: the word is put together again. -/
@[simp] theorem encodeInfo_decodeInfo (w : Word) : encodeInfo (decodeInfo w) = w := by
  obtain ⟨harity, hnptrs, hnvars, hentry⟩ := decodeInfo_toNat w
  apply BitVec.eq_of_toNat_eq
  rw [encodeInfo_toNat, harity, hnptrs, hnvars, hentry]
  omega

theorem encode_info (m : AluMap) (e : InfoFields) : encode m (.info e) = (encodeInfo e).toNat := rfl

/-- On a number that is a word, the row INFO reads the fields of that word. -/
theorem decodeAs_info32_toNat (m : AluMap) (w : Word) :
    decodeAs m .info32 w.toNat = .ok (.info (decodeInfo w)) := by
  simp only [decodeAs, if_pos w.isLt, BitVec.ofNat_toNat, BitVec.setWidth_eq]

/-- Settles O3: the weights of the fields are those of the concatenation, and `decodeInfo` and `encodeInfo` are
inverse to each other on words. -/
theorem infoTableEntryRoundTrip : Obligations.InfoTableEntryRoundTrip := by
  unfold Obligations.InfoTableEntryRoundTrip
  refine fun m => ⟨fun e => ⟨encodeInfo_toNat e, ?_⟩, fun w hw => ?_⟩
  · rw [encode_info, decodeAs_info32_toNat, decodeInfo_encodeInfo]
  · obtain ⟨v, rfl⟩ : ∃ v : Word, v.toNat = w := ⟨BitVec.ofNat 32 w, Nat.mod_eq_of_lt hw⟩
    exact ⟨decodeInfo v, decodeAs_info32_toNat m v, by rw [encode_info, encodeInfo_decodeInfo]⟩

end Sys2Proof
end

/-! The Field Decoder (40_field_decoder.md R140): a field of a word as a number, by where its range of bits lies. -/

section
namespace Sys2Proof

section ranges

variable {n : Nat} (w : BitVec n) (lo len : Nat)

/-- A range inside the word: drop the bits below it, then those above it. -/
theorem toNat_extract_eq_div_mod : (w.extractLsb' lo len).toNat = w.toNat / 2 ^ lo % 2 ^ len := by
  rw [BitVec.extractLsb'_toNat, Nat.shiftRight_eq_div_pow]

/-- A range at the bottom of the word has no bits below it. -/
theorem toNat_extract_bottom : (w.extractLsb' 0 len).toNat = w.toNat % 2 ^ len := by
  rw [toNat_extract_eq_div_mod, pow_zero, Nat.div_one]

/-- A range at the top of the word has no bits above it. -/
theorem toNat_extract_top (h : n = lo + len) : (w.extractLsb' lo len).toNat = w.toNat / 2 ^ lo := by
  have hlt : w.toNat / 2 ^ lo < 2 ^ len := Nat.div_lt_of_lt_mul (by rw [← pow_add, ← h]; exact w.isLt)
  rw [toNat_extract_eq_div_mod, Nat.mod_eq_of_lt hlt]

end ranges

/-- The opcode is the top range, `dsrc`, `litpattern` and `conitable` lie inside, the other views are at the bottom. -/
theorem decodeInstr_toNat (w : Word) :
    (decodeInstr w).opcode.toNat = w.toNat / 2 ^ 27 ∧
    (decodeInstr w).dsrc.toNat = w.toNat / 2 ^ 24 % 2 ^ 3 ∧
    (decodeInstr w).name.toNat = w.toNat % 2 ^ 10 ∧
    (decodeInstr w).argindex.toNat = w.toNat % 2 ^ 3 ∧
    (decodeInstr w).freevarindex.toNat = w.toNat % 2 ^ 8 ∧
    (decodeInstr w).litpattern.toNat = w.toNat / 2 ^ 8 % 2 ^ 16 ∧
    (decodeInstr w).conitable.toNat = w.toNat / 2 ^ 8 % 2 ^ 10 ∧
    (decodeInstr w).nInstrs.toNat = w.toNat % 2 ^ 8 ∧
    (decodeInstr w).imm.toNat = w.toNat % 2 ^ 24 :=
  ⟨toNat_extract_top w 27 5 rfl, toNat_extract_eq_div_mod w 24 3, toNat_extract_bottom w 10,
    toNat_extract_bottom w 3, toNat_extract_bottom w 8, toNat_extract_eq_div_mod w 8 16,
    toNat_extract_eq_div_mod w 8 10, toNat_extract_bottom w 8, toNat_extract_bottom w 24⟩

/-- Settles O1: the fields of the instruction word by `decodeInstr_toNat`, those of the info-table word by
`decodeInfo_toNat`. -/
theorem fieldDecoderReadsEveryField : Obligations.FieldDecoderReadsEveryField := by
  unfold Obligations.FieldDecoderReadsEveryField
  intro w
  obtain ⟨hopcode, hdsrc, hname, hargindex, hfreevar, hlit, hconitable, hnInstrs, himm⟩ := decodeInstr_toNat w
  obtain ⟨harity, hnptrs, hnvars, hentry⟩ := decodeInfo_toNat w
  exact ⟨hopcode, hdsrc, hname, hargindex, hfreevar, hlit, hconitable, hnInstrs, himm,
    hentry, hnvars, hnptrs, harity⟩

end Sys2Proof
end

/-! The data source (41_data_source_mux.md): what a row delivers in a safe cycle, and the load of `ret` from a source
that is always there, with the other units idle. -/

section
namespace Sys2Proof

open Sys2Proof.Machine Sys2Proof.Laws

section values

variable (f : InstrFields) (inp : CycleIn) (s : State)

@[simp] theorem dataValue_ret : dataValue .ret f inp s = s.ret := rfl

@[simp] theorem dataValue_rsv (b : BitVec 1) : dataValue (.rsv b) f inp s = 0 := rfl

end values

/-- In a safe cycle, a row of format CTRL22 delivers the data value of its controls. -/
theorem exec_delivers {i : Instr} {c : Ctl} {s : State} {inp : CycleIn} {rest : List CycleIn} {v : Word}
    (hi : i.ctl = some c) (hs : s.stim = inp :: rest) (hv : dataValue c.d (fetchFields s) inp s = v)
    (ok : CycleOk (fetchFields s) c inp s) : ∃ t, exec i s = .next t ∧ Delivered v c.g c.r c.k s t :=
  ⟨_, by rw [exec_of_ctl hi, runCtl_of_ok hs ok], commit_delivered _ _ _ _ _ _ fun _ => hv⟩

/-- The controls of a load of `ret` from the source `d`, with the other units idle. -/
def loadCtl (xsrc : BitVec 2) (d : DOp) (a : AluOp) : Ctl := ⟨.hold xsrc, d, a, .hold, .ldDv, .hold⟩

/-- Only the argument port can be unwritten: a load from any other source is safe in every state. -/
theorem cycleOk_loadCtl {d : DOp} (hd : d ≠ .arg) (xsrc : BitVec 2) (a : AluOp) (f : InstrFields) (inp : CycleIn)
    (s : State) : CycleOk f (loadCtl xsrc d a) inp s := by
  constructor <;> simp [loadCtl, hd]

/-- A load changes `ret` alone, and uses its cycle up. -/
theorem commit_loadCtl (xsrc : BitVec 2) (d : DOp) (a : AluOp) (f : InstrFields) (e : InfoFields) (k : ContFields)
    (inp : CycleIn) (s : State) :
    commit f e k (loadCtl xsrc d a) inp s = { s with ret := dataValue d f inp s, stim := s.stim.tail } := rfl

/-- A load from a source other than the argument port completes in every state. -/
theorem exec_load {i : Instr} {xsrc : BitVec 2} {d : DOp} {a : AluOp} {s : State} {inp : CycleIn}
    {rest : List CycleIn} (hi : i.ctl = some (loadCtl xsrc d a)) (hd : d ≠ .arg) (hs : s.stim = inp :: rest) :
    exec i s = .next { s with ret := dataValue d (fetchFields s) inp s, stim := rest } := by
  rw [exec_of_ctl hi, runCtl_of_ok hs (cycleOk_loadCtl hd xsrc a _ inp s), commit_loadCtl, hs, List.tail_cons]

/-- Settles O26: the data value of the source `ret` is the `ret` of the old state, so a reload writes back what is
there. -/
theorem dataSourceReturnRegister : Obligations.DataSourceReturnRegister := by
  unfold Obligations.DataSourceReturnRegister
  intro x a g r k s inp rest hs
  refine ⟨exec_delivers rfl hs (dataValue_ret _ inp s), fun xsrc => ?_⟩
  rw [exec_load (d := .ret) rfl nofun hs, dataValue_ret]

/-- Settles O27: the data value of a reserved code is 0. -/
theorem dataSourceReservedCodesGiveZero : Obligations.DataSourceReservedCodesGiveZero := by
  unfold Obligations.DataSourceReservedCodesGiveZero
  intro b x a g r k s inp rest hs
  refine ⟨exec_delivers rfl hs (dataValue_rsv _ inp s b), fun xsrc => ?_⟩
  rw [exec_load (d := .rsv b) rfl nofun hs, dataValue_rsv]

end Sys2Proof
end

/-! The evaluation stack (43_eval_stack.md R226, R227): the faults of a cycle that leaves the stack alone, and the
pointer after a cycle by the stack signal of its control vector. -/

section
namespace Sys2Proof

open Sys2Proof.Machine Sys2Proof.Laws

/-- Whatever a chain of checks answers has a property exactly when the first check's answer has it, where that check
holds, and the answers of the rest have it, where it does not. -/
theorem check_some_forall {α : Type} (p : Prop) [Decidable p] (x : α) (o : Option α) (P : α → Prop) :
    (∀ y, (if p then some x else o) = some y → P y) ↔ (p → P x) ∧ (¬ p → ∀ y, o = some y → P y) := by
  by_cases hp : p <;> simp [hp]

/-- With no stack control the three stack checks, codes 1 to 3, are passed, and every check after them has a code from
4 on. -/
theorem four_le_faultCode_of_stkHold {f : InstrFields} {c : Ctl} {inp : CycleIn} {s : State} (hk : c.k = .hold) :
    ∀ φ, firstFault f c inp s = some φ → 4 ≤ faultCode φ := by
  simp only [firstFault, check_some_forall]
  refine ⟨fun hconflict => ?_, fun _ => ⟨fun hoverflow => ?_, fun _ => ⟨fun hunderflow => ?_, fun _ => ?_⟩⟩⟩
  · simp [hk, stackConflict] at hconflict
  · simp [hk] at hoverflow
  · simp [hk] at hunderflow
  · simp [faultCode]

/-- A cycle ends in a fault exactly when that is the first check that holds. -/
theorem cycle_eq_fault_iff {f : InstrFields} {e : InfoFields} {k : ContFields} {c : Ctl} {inp : CycleIn} {s : State}
    {φ : Fault} : cycle f e k c inp s = .fault φ ↔ firstFault f c inp s = some φ := by
  unfold cycle
  cases firstFault f c inp s <;> simp

/-- Settles O37: the commit of a cycle with no stack control keeps both, and only the stack checks have a code
below 4. -/
theorem stackHold : Obligations.StackHold := by
  unfold Obligations.StackHold
  intro x d a g r s inp rest hs
  rw [exec_of_ctl (i := .stkHold x d a g r) rfl]
  refine ⟨fun ok => ⟨_, runCtl_of_ok hs ok, rfl, rfl⟩, fun φ hφ => ?_⟩
  rw [runCtl_cons hs, cycle_eq_fault_iff] at hφ
  exact four_le_faultCode_of_stkHold rfl φ hφ

/-- The stack signals are bits 18 to 21 of the control vector (30_encoding.md R114), in the order of the operation's
own bits. -/
theorem getLsbD_stackSignal (s : State) (inp : CycleIn) {i : Nat} (hi : i < 4) :
    inp.cv.getLsbD (18 + i) = (ctlOf s inp).k.bits.getLsbD i := by
  have hbits : (ctlOf s inp).k.bits = inp.cv.extractLsb' 18 4 := stkOp_bits_ofBits _
  simp [hbits, hi]

section pointer

variable {f : InstrFields} {c : Ctl} {inp : CycleIn} {s : State} (ok : CycleOk f c inp s)
include ok

/-- A push below the top address does not wrap. -/
theorem nextSp_push_toNat (hk : c.k = .wv ∨ c.k = .wc) : (nextSp c.k inp s).toNat = s.sp.toNat + 1 := by
  have hsp := ok.noOverflow hk
  have hnext : nextSp c.k inp s = s.sp + 1 := by rcases hk with h | h <;> rw [h, nextSp]
  rw [hnext]
  bv_omega

/-- A decrement above slot 0 does not wrap. -/
theorem nextSp_dec_toNat (hk : c.k = .dec) : (nextSp c.k inp s).toNat + 1 = s.sp.toNat := by
  have hsp := ok.noUnderflowDec hk
  rw [hk, nextSp]
  bv_omega

/-- Clearing no more locals than there are slots does not wrap. -/
theorem nextSp_clr_toNat (hk : c.k = .clr) : (nextSp c.k inp s).toNat + inp.nLocals.toNat = s.sp.toNat := by
  have hsp := ok.noUnderflowClr hk
  rw [hk, nextSp]
  bv_omega

end pointer

/-- Settles O40: a step that completes has one stack operation and no conflict; its bits are the signals, and each
operation moves the pointer without a wrap. -/
theorem stackPointerUpdate : Obligations.StackPointerUpdate := by
  unfold Obligations.StackPointerUpdate
  intro s inp rest t hs hstep
  rw [step_cons hs, runCtl_cons hs, cycle_eq_next_iff] at hstep
  obtain ⟨ok, rfl⟩ := hstep
  have hdec := getLsbD_stackSignal s inp (i := 0) (by decide)
  have hclr := getLsbD_stackSignal s inp (i := 1) (by decide)
  have hwv := getLsbD_stackSignal s inp (i := 2) (by decide)
  have hwc := getLsbD_stackSignal s inp (i := 3) (by decide)
  simp only [hdec, hclr, hwv, hwc, commit_sp]
  cases hk : (ctlOf s inp).k with
  | hold => simp [StkOp.bits, nextSp]
  | wv => simpa [StkOp.bits, hk] using nextSp_push_toNat ok (.inl hk)
  | wc => simpa [StkOp.bits, hk] using nextSp_push_toNat ok (.inr hk)
  | dec => simpa [StkOp.bits, hk] using nextSp_dec_toNat ok hk
  | clr => simpa [StkOp.bits, hk] using nextSp_clr_toNat ok hk
  | conflict b => exact absurd hk (ok.oneStackControl b)

end Sys2Proof
end

/-! The argument banks (44_arg_bank.md R254): the roles and counters after a switch, with a write or without, the banks
of a cycle that writes neither, and the switch with the other units idle. -/

section
namespace Sys2Proof

open Sys2Proof.Machine Sys2Proof.Laws

/-- In a safe cycle, a row of format CTRL22 completes with the commit of its controls. -/
theorem exec_of_ok {i : Instr} {c : Ctl} {s : State} {inp : CycleIn} {rest : List CycleIn} (hi : i.ctl = some c)
    (hs : s.stim = inp :: rest) (ok : CycleOk (fetchFields s) c inp s) :
    exec i s = .next (commit (fetchFields s) (infoFields s inp) (contNow s inp) c inp s) := by
  rw [exec_of_ctl hi, runCtl_of_ok hs ok]

section roles

variable {g : ArgOp} (s : State)

/-- A switch inverts the roles, whether or not the cycle writes. -/
theorem nextBstate_of_switch (hg : g = .sw ∨ g = .weSw) : nextBstate g s = !s.bstate := by
  rcases hg with rfl | rfl <;> rfl

/-- A switch resets the counter, and a write in the same cycle does not count on. -/
theorem nextAcount_of_switch (hg : g = .sw ∨ g = .weSw) : nextAcount g s = 0 := by
  rcases hg with rfl | rfl <;> rfl

/-- A switch resets the count of writes, and a write in the same cycle is not counted. -/
theorem nextAwrites_of_switch (hg : g = .sw ∨ g = .weSw) : nextAwrites g s = 0 := by
  rcases hg with rfl | rfl <;> rfl

/-- Without `arg_we` nothing is written to a bank, whatever the data value. -/
theorem nextBank_of_no_write (hg : g = .hold ∨ g = .sw) (b : Bool) (dv : Word) : nextBank b g dv s = bank s b := by
  rcases hg with rfl | rfl <;> rfl

end roles

/-- A cycle without `arg_we` keeps the contents of both banks. -/
theorem commit_bank_of_no_write {f : InstrFields} {e : InfoFields} {k : ContFields} {c : Ctl} {inp : CycleIn}
    (s : State) (hg : c.g = .hold ∨ c.g = .sw) (b : Bool) : bank (commit f e k c inp s) b = bank s b := by
  rw [commit_bank, nextBank_of_no_write s hg]

/-- The controls of a switch with the other units idle. -/
def switchCtl (xsrc : BitVec 2) (d : DOp) (a : AluOp) (b : Bool) : Ctl := ⟨.hold xsrc, d, a, .sw, .hold b, .hold⟩

/-- A switch consumes no value and writes no slot, so by itself it is safe in every state. -/
theorem cycleOk_switchCtl (xsrc : BitVec 2) (d : DOp) (a : AluOp) (b : Bool) (f : InstrFields) (inp : CycleIn)
    (s : State) : CycleOk f (switchCtl xsrc d a b) inp s := by
  constructor <;> simp [switchCtl]

/-- A switch by itself changes the roles and the counters alone, and uses its cycle up. -/
theorem commit_switchCtl (xsrc : BitVec 2) (d : DOp) (a : AluOp) (b : Bool) (f : InstrFields) (e : InfoFields)
    (k : ContFields) (inp : CycleIn) (s : State) :
    commit f e k (switchCtl xsrc d a b) inp s =
      { s with bstate := !s.bstate, acount := 0, awrites := 0, stim := s.stim.tail } := rfl

/-- Settles O32: the three clauses are the commit of `arg_sw`, of `arg_sw` with `arg_we`, and of `arg_sw` with the
other units idle, which passes every check. -/
theorem argumentBankSwitch : Obligations.ArgumentBankSwitch := by
  unfold Obligations.ArgumentBankSwitch
  intro x d a r k s inp rest hs
  refine ⟨fun ok => ?alone, fun ok => ?withWrite, fun xsrc b => ?idle⟩
  case alone =>
    exact ⟨_, exec_of_ok rfl hs ok, nextBstate_of_switch s (.inl rfl), nextAcount_of_switch s (.inl rfl),
      nextAwrites_of_switch s (.inl rfl), commit_bank_of_no_write s (.inr rfl) false,
      commit_bank_of_no_write s (.inr rfl) true⟩
  case withWrite =>
    exact ⟨_, exec_of_ok rfl hs ok, nextBstate_of_switch s (.inr rfl), nextAcount_of_switch s (.inr rfl),
      nextAwrites_of_switch s (.inr rfl)⟩
  case idle =>
    have ok := cycleOk_switchCtl xsrc d a b (fetchFields s) inp s
    rw [exec_of_ok rfl hs ok, commit_switchCtl, hs, List.tail_cons]

end Sys2Proof
end

/-! The ALU and the return register (45_alu_return.md R294, R297): a reserved code gives 0 and reads no operand, and a
selector whose value no unit consumes has no effect on a cycle. -/

section
namespace Sys2Proof

open Sys2Proof.Machine Sys2Proof.Laws

section reserved

variable {a : AluOp} (ha : ∀ f, a ≠ .fn f)
include ha

theorem aluOut_of_reserved (signed : Bool) (x y : Word) : aluOut signed a x y = 0 := by
  cases a with
  | fn f => exact absurd rfl (ha f)
  | _ => rfl

theorem reads_of_reserved : readsA a = false ∧ readsB a = false := by
  cases a with
  | fn f => exact absurd rfl (ha f)
  | _ => exact ⟨rfl, rfl⟩

/-- With no operand read, a load of `ret` from the ALU with the other units idle is safe in every state. -/
theorem cycleOk_aluLoad_of_reserved (xsrc : BitVec 2) (d : DOp) (f : InstrFields) (inp : CycleIn) (s : State) :
    CycleOk f ⟨.hold xsrc, d, a, .hold, .ldAlu, .hold⟩ inp s := by
  constructor <;> simp [reads_of_reserved ha]

end reserved

/-- In a safe cycle, a row with a reserved code completes, and an ALU load of `ret` latches 0. -/
theorem exec_latches_zero {i : Instr} {c : Ctl} {s : State} {inp : CycleIn} {rest : List CycleIn}
    (hi : i.ctl = some c) (ha : ∀ f, c.a ≠ .fn f) (hs : s.stim = inp :: rest)
    (ok : CycleOk (fetchFields s) c inp s) : ∃ t, exec i s = .next t ∧ (c.r = .ldAlu → t.ret = 0) := by
  refine ⟨_, exec_of_ok hi hs ok, fun hr => ?_⟩
  rw [commit_ret, hr, nextRet, aluOut_of_reserved ha]

theorem reserved_ne_fn (b : BitVec 8) (f : AluFn) : AluOp.reserved b ≠ .fn f := by
  unfold AluOp.reserved
  split_ifs <;> exact nofun

/-- No assignment of the twelve operations reaches the codes from 0x10 up. -/
theorem ofBits_ne_fn {b : BitVec 8} (hb : 0x10 ≤ b.toNat) (m : AluMap) (f : AluFn) : AluOp.ofBits m b ≠ .fn f := by
  have hlt : ¬ b.toNat < 12 := by omega
  rw [AluOp.ofBits, dif_neg hlt]
  exact reserved_ne_fn b f

/-- Settles O21: the four rows have reserved codes, which give 0, and every code from 0x10 up is reserved, which reads
no operand. -/
theorem aluReservedGroupsGiveZero : Obligations.AluReservedGroupsGiveZero := by
  unfold Obligations.AluReservedGroupsGiveZero
  intro x d g r k s inp rest hs
  refine ⟨fun lo => exec_latches_zero rfl nofun hs, fun lo => exec_latches_zero rfl nofun hs,
    fun lo => exec_latches_zero rfl nofun hs, fun lo => exec_latches_zero rfl nofun hs, fun xsrc b hb => ?_⟩
  exact cycleOk_aluLoad_of_reserved (ofBits_ne_fn hb s.cfg.aluOpMap) xsrc d _ inp s

/-- Where no unit consumes the data value, the stack is not pushed a value, no bank is written and `ret` does not
load it (41_data_source_mux.md R178). -/
theorem dvUsed_eq_false_iff (c : Ctl) :
    dvUsed c = false ↔ c.k ≠ .wv ∧ (c.g = .hold ∨ c.g = .sw) ∧ c.r ≠ .ldDv := by
  obtain ⟨x, d, a, g, r, k⟩ := c
  cases g <;> simp [dvUsed]

theorem nextStk_of_ne_wv {k : StkOp} (hk : k ≠ .wv) (dv dv' cw : Word) (s : State) :
    nextStk k dv' cw s = nextStk k dv cw s := by
  cases k with
  | wv => exact absurd rfl hk
  | _ => rfl

theorem nextRet_of_ne_ldDv {r : RetOp} (hr : r ≠ .ldDv) (dv dv' alu : Word) (s : State) :
    nextRet r dv' alu s = nextRet r dv alu s := by
  cases r with
  | ldDv => exact absurd rfl hr
  | _ => rfl

theorem nextRet_of_ne_ldAlu {r : RetOp} (hr : r ≠ .ldAlu) (dv alu alu' : Word) (s : State) :
    nextRet r dv alu' s = nextRet r dv alu s := by
  cases r with
  | ldAlu => exact absurd rfl hr
  | _ => rfl

section unused

variable {f : InstrFields} {e : InfoFields} {k : ContFields} {c : Ctl} {inp : CycleIn} {s : State}

/-- A cycle is fixed by its checks and its commit. -/
theorem cycle_congr {c' : Ctl} (hfault : firstFault f c' inp s = firstFault f c inp s)
    (hcommit : commit f e k c' inp s = commit f e k c inp s) : cycle f e k c' inp s = cycle f e k c inp s := by
  rw [cycle, cycle, hfault, hcommit]

/-- With no consumer of the data value, a cycle is the same from every source. -/
theorem cycle_dsrc_of_unused (hu : dvUsed c = false) (d' : DOp) :
    cycle f e k { c with d := d' } inp s = cycle f e k c inp s := by
  obtain ⟨hk, hg, hr⟩ := (dvUsed_eq_false_iff c).1 hu
  have hu' : dvUsed { c with d := d' } = false := hu
  refine cycle_congr ?_ ?_
  · simp only [firstFault, hu, hu', Bool.false_and]
  · simp only [commit, nextStk_of_ne_wv hk (dataValue c.d f inp s), nextBank_of_no_write s hg,
      nextRet_of_ne_ldDv hr (dataValue c.d f inp s)]

/-- With no ALU load of `ret`, a cycle is the same for every operation. -/
theorem cycle_aluop_of_unused (hr : c.r ≠ .ldAlu) (a' : AluOp) :
    cycle f e k { c with a := a' } inp s = cycle f e k c inp s := by
  refine cycle_congr ?_ ?_
  · simp only [firstFault, dvUsed, beq_eq_false_iff_ne.2 hr, Bool.false_and]
  · simp only [commit, nextRet_of_ne_ldAlu hr _ (aluOut s.cfg.cmpSigned c.a (opA s) (opB s))]

/-- With no load of `ret`, a cycle is the same for either `alu2ret`. -/
theorem cycle_alu2ret_of_hold (b b' : Bool) :
    cycle f e k { c with r := .hold b' } inp s = cycle f e k { c with r := .hold b } inp s :=
  cycle_congr (by simp [firstFault, dvUsed]) rfl

end unused

/-- Settles O36: the commit of a cycle with no load keeps `ret`, and `alu2ret`, the operation and an unconsumed source
enter neither its checks nor its commit. -/
theorem returnRegisterHold : Obligations.ReturnRegisterHold := by
  unfold Obligations.ReturnRegisterHold
  intro b x d a g k s inp rest hs
  have hexec (b : Bool) (d : DOp) (a : AluOp) : exec (.retHold b x d a g k) s =
      cycle (fetchFields s) (infoFields s inp) (contNow s inp) ⟨x, d, a, g, .hold b, k⟩ inp s := by
    rw [exec_of_ctl (i := .retHold b x d a g k) rfl, runCtl_cons hs]
  refine ⟨fun ok => ⟨_, exec_of_ok rfl hs ok, rfl⟩, fun b' a' => ?selectors, fun d' hk hg => ?source⟩
  case selectors =>
    rw [hexec, hexec]
    exact (cycle_alu2ret_of_hold (c := ⟨x, d, a', g, .hold b, k⟩) b b').trans
      (cycle_aluop_of_unused (c := ⟨x, d, a, g, .hold b, k⟩) nofun a')
  case source =>
    rw [hexec, hexec]
    exact cycle_dsrc_of_unused (c := ⟨x, d, a, g, .hold b, k⟩) ((dvUsed_eq_false_iff _).2 ⟨hk, hg, nofun⟩) d'

end Sys2Proof
end

/-! The instruction word (30_encoding.md R100): its views as numbers, and that `decodeInstr` and `encodeInstr` are
inverse to each other on the words whose views agree. -/

section
namespace Sys2Proof

/-- The views of a word agree exactly when each, as a number, is its range of the 24 low bits. -/
theorem InstrFields.wf_iff (f : InstrFields) :
    f.wf = true ↔
      f.name.toNat = f.imm.toNat % 2 ^ 10 ∧ f.argindex.toNat = f.imm.toNat % 2 ^ 3 ∧
      f.freevarindex.toNat = f.imm.toNat % 2 ^ 8 ∧ f.litpattern.toNat = f.imm.toNat / 2 ^ 8 ∧
      f.conitable.toNat = f.imm.toNat / 2 ^ 8 % 2 ^ 10 ∧ f.nInstrs.toNat = f.imm.toNat % 2 ^ 8 := by
  simp only [InstrFields.wf, Bool.and_eq_true, beq_iff_eq, and_assoc, ← BitVec.toNat_inj,
    toNat_extract_bottom, toNat_extract_top f.imm 8 16 rfl, toNat_extract_eq_div_mod f.imm 8 10]

/-- Instruction words are equal when their fields are equal as numbers. -/
theorem InstrFields.eq_of_toNat_eq {a b : InstrFields} (hopcode : a.opcode.toNat = b.opcode.toNat)
    (hdsrc : a.dsrc.toNat = b.dsrc.toNat) (hname : a.name.toNat = b.name.toNat)
    (hargindex : a.argindex.toNat = b.argindex.toNat) (hfreevar : a.freevarindex.toNat = b.freevarindex.toNat)
    (hlit : a.litpattern.toNat = b.litpattern.toNat) (hconitable : a.conitable.toNat = b.conitable.toNat)
    (hnInstrs : a.nInstrs.toNat = b.nInstrs.toNat) (himm : a.imm.toNat = b.imm.toNat) : a = b := by
  cases a
  cases b
  simp only [InstrFields.mk.injEq, ← BitVec.toNat_inj]
  exact ⟨hopcode, hdsrc, hname, hargindex, hfreevar, hlit, hconitable, hnInstrs, himm⟩

theorem encodeInstr_toNat (f : InstrFields) :
    (encodeInstr f).toNat = f.opcode.toNat * 2 ^ 27 + f.dsrc.toNat * 2 ^ 24 + f.imm.toNat := by
  simp only [encodeInstr, toNat_append_eq_mul_add]
  ring

/-- The ranges of an encoded word: `opcode` and `dsrc` stand above the 24 bits of `imm`, which hold every view. -/
theorem encodeInstr_ranges (f : InstrFields) :
    (encodeInstr f).toNat / 2 ^ 27 = f.opcode.toNat ∧ (encodeInstr f).toNat / 2 ^ 24 % 2 ^ 3 = f.dsrc.toNat ∧
    (encodeInstr f).toNat % 2 ^ 10 = f.imm.toNat % 2 ^ 10 ∧ (encodeInstr f).toNat % 2 ^ 3 = f.imm.toNat % 2 ^ 3 ∧
    (encodeInstr f).toNat % 2 ^ 8 = f.imm.toNat % 2 ^ 8 ∧
    (encodeInstr f).toNat / 2 ^ 8 % 2 ^ 16 = f.imm.toNat / 2 ^ 8 ∧
    (encodeInstr f).toNat / 2 ^ 8 % 2 ^ 10 = f.imm.toNat / 2 ^ 8 % 2 ^ 10 ∧
    (encodeInstr f).toNat % 2 ^ 24 = f.imm.toNat := by
  rw [encodeInstr_toNat]
  omega

/-- A word whose views agree is read back with every view. -/
theorem decodeInstr_encodeInstr {f : InstrFields} (hf : f.wf = true) : decodeInstr (encodeInstr f) = f := by
  obtain ⟨hname, hargindex, hfreevar, hlit, hconitable, hnInstrs⟩ := f.wf_iff.1 hf
  obtain ⟨hopcode', hdsrc', hname', hargindex', hfreevar', hlit', hconitable', hnInstrs', himm'⟩ :=
    decodeInstr_toNat (encodeInstr f)
  obtain ⟨h27, h24, hlow10, hlow3, hlow8, hmid16, hmid10, hlow24⟩ := encodeInstr_ranges f
  apply InstrFields.eq_of_toNat_eq
  · rw [hopcode', h27]
  · rw [hdsrc', h24]
  · rw [hname', hlow10, hname]
  · rw [hargindex', hlow3, hargindex]
  · rw [hfreevar', hlow8, hfreevar]
  · rw [hlit', hmid16, hlit]
  · rw [hconitable', hmid10, hconitable]
  · rw [hnInstrs', hlow8, hnInstrs]
  · rw [himm', hlow24]

/-- `opcode`, `dsrc` and `imm` leave no gap: the word is put together again. -/
@[simp] theorem encodeInstr_decodeInstr (w : Word) : encodeInstr (decodeInstr w) = w := by
  obtain ⟨hopcode, hdsrc, -, -, -, -, -, -, himm⟩ := decodeInstr_toNat w
  apply BitVec.eq_of_toNat_eq
  rw [encodeInstr_toNat, hopcode, hdsrc, himm]
  omega

/-- The views the decoder takes of one word agree. -/
theorem wf_decodeInstr (w : Word) : (decodeInstr w).wf = true := by
  obtain ⟨-, -, hname, hargindex, hfreevar, hlit, hconitable, hnInstrs, himm⟩ := decodeInstr_toNat w
  rw [InstrFields.wf_iff, hname, hargindex, hfreevar, hlit, hconitable, hnInstrs, himm]
  omega

/-- On a number that is a word, the row INSTR reads the fields of that word. -/
theorem decodeAs_instr32_toNat (m : AluMap) (w : Word) :
    decodeAs m .instr32 w.toNat = .ok (.instr (decodeInstr w)) := by
  simp only [decodeAs, if_pos w.isLt, BitVec.ofNat_toNat, BitVec.setWidth_eq]

/-- Settles O2: `decodeInstr` and `encodeInstr` are inverse to each other where the views agree, and the views of a
decoded word do. -/
theorem instructionWordRoundTrip : Obligations.InstructionWordRoundTrip := by
  unfold Obligations.InstructionWordRoundTrip
  refine fun m => ⟨fun f hf => ?_, fun w hw => ?_⟩
  · exact (decodeAs_instr32_toNat m (encodeInstr f)).trans (by rw [decodeInstr_encodeInstr hf])
  · obtain ⟨v, rfl⟩ : ∃ v : Word, v.toNat = w := ⟨BitVec.ofNat 32 w, Nat.mod_eq_of_lt hw⟩
    exact ⟨decodeInstr v, decodeAs_instr32_toNat m v, wf_decodeInstr v,
      congrArg BitVec.toNat (encodeInstr_decodeInstr v)⟩

end Sys2Proof
end

/-! The control vector (30_encoding.md R114): packing and unpacking are inverse to each other, and the instructions of
format CTRL22 are those with controls. -/

section
namespace Sys2Proof

open Sys2Proof.Laws

/-- No two units overlap: the controls are read back from their vector. -/
theorem ofWord_toWord {m : AluMap} (hm : m.toList.Nodup) {c : Ctl} (hk : c.k.wf = true) :
    Ctl.ofWord m (c.toWord m) = c := by
  simp only [Ctl.ofWord, toWord_x, toWord_d, toWord_a, toWord_g, toWord_r, toWord_k, xOp_ofBits_bits,
    dOp_ofBits_bits, aluOp_ofBits_bits hm, argOp_ofBits_bits, retOp_ofBits_bits, stkOp_ofBits_bits hk]

/-- The six ranges of a vector leave no gap. -/
theorem append_ranges (w : BitVec 22) :
    w.extractLsb' 18 4 ++ w.extractLsb' 16 2 ++ w.extractLsb' 14 2 ++ w.extractLsb' 6 8 ++ w.extractLsb' 3 3 ++
      w.extractLsb' 0 3 = w := by
  apply BitVec.eq_of_toNat_eq
  simp only [toNat_append_eq_mul_add, toNat_extract_eq_div_mod]
  have := w.isLt
  omega

/-- A vector is put together again from its controls. -/
theorem toWord_ofWord {m : AluMap} (hm : m.toList.Nodup) (w : BitVec 22) : (Ctl.ofWord m w).toWord m = w := by
  simp only [Ctl.toWord, Ctl.ofWord, xOp_bits_ofBits, dOp_bits_ofBits, aluOp_bits_ofBits hm, argOp_bits_ofBits,
    retOp_bits_ofBits, stkOp_bits_ofBits, append_ranges]

/-- The packing is a bijection between the controls with a proper stack operation and the vectors. -/
theorem ofWord_eq_iff {m : AluMap} (hm : m.toList.Nodup) (w : BitVec 22) (c : Ctl) :
    c = Ctl.ofWord m w ↔ c.k.wf = true ∧ (c.toWord m).toNat = w.toNat := by
  rw [BitVec.toNat_inj]
  constructor
  · rintro rfl
    exact ⟨stkOp_wf_ofBits _, toWord_ofWord hm w⟩
  · rintro ⟨hk, rfl⟩
    exact (ofWord_toWord hm hk).symm

/-- The rows of format CTRL22 are the instructions with controls. -/
theorem format_eq_ctrl22_iff (i : Instr) : i.format = .ctrl22 ↔ ∃ c, i.ctl = some c := by
  cases i <;> simp [Instr.format, Instr.ctl]

section controls

variable {i : Instr} {c : Ctl} (hi : i.ctl = some c)
include hi

theorem wellFormed_of_ctl : WellFormed i = c.k.wf := by
  cases i <;> simp_all [WellFormed, Instr.ctl]

theorem encode_of_ctl (m : AluMap) : encode m i = (c.toWord m).toNat := by
  cases i <;> simp_all [encode, Instr.ctl]

end controls

/-- Settles O5: the readings of a vector are the instructions with its controls, and those controls are the ones with a
proper stack operation that pack to it. -/
theorem readingsAreTheInstructionsOfAVector : Obligations.ReadingsAreTheInstructionsOfAVector := by
  unfold Obligations.ReadingsAreTheInstructionsOfAVector
  intro m hm w i
  rw [readings, mem_rows_iff, format_eq_ctrl22_iff]
  constructor
  · intro hi
    have hpack := (ofWord_eq_iff hm w _).1 rfl
    exact ⟨⟨_, hi⟩, by rw [wellFormed_of_ctl hi, encode_of_ctl hi]; exact hpack⟩
  · rintro ⟨⟨c, hi⟩, hwf, hencode⟩
    rw [wellFormed_of_ctl hi] at hwf
    rw [encode_of_ctl hi] at hencode
    rw [hi, (ofWord_eq_iff hm w c).2 ⟨hwf, hencode⟩]

/-- Settles O6: the lead row of a vector has the controls of the vector, as every reading of it has. -/
theorem decoderNamesARowOfTheVector : Obligations.DecoderNamesARowOfTheVector := by
  unfold Obligations.DecoderNamesARowOfTheVector
  refine fun m => ⟨fun w => ⟨?_, ?_⟩, fun w hw => ?_⟩
  · simp only [decodeAs, if_pos w.isLt, BitVec.ofNat_toNat, BitVec.setWidth_eq]
  · rw [readings, mem_rows_iff]
    exact leadRow_ctl _
  · simp only [decodeAs, if_neg (Nat.not_lt.2 hw)]

/-- Settles O7: each word is decoded to the instruction written out for it. -/
theorem writtenOutWordsDecode : Obligations.WrittenOutWordsDecode := by
  unfold Obligations.WrittenOutWordsDecode
  exact ⟨rfl, rfl, rfl, rfl, rfl, rfl, rfl, rfl, rfl, rfl⟩

end Sys2Proof
end

/-! The continuation record (30_encoding.md R104, decisions D2 and D3): its layout as a number, and that `contFields`
and `encodeCont` are inverse to each other on the words of 29 bits. -/

section
namespace Sys2Proof

theorem encodeCont_toNat (c : ContFields) :
    (encodeCont c).toNat = c.cExptr.toNat * 2 ^ 14 + c.cClosure.toNat * 2 ^ 4 + c.cNlocals.toNat := by
  simp only [encodeCont, toNat_append_eq_mul_add, BitVec.toNat_zero]
  ring

theorem encodeCont_lt (c : ContFields) : (encodeCont c).toNat < 2 ^ 29 := by
  rw [encodeCont_toNat]
  omega

theorem contFields_toNat (w : Word) :
    (contFields w).cExptr.toNat = w.toNat / 2 ^ 14 % 2 ^ 15 ∧
    (contFields w).cClosure.toNat = w.toNat / 2 ^ 4 % 2 ^ 10 ∧
    (contFields w).cNlocals.toNat = w.toNat % 2 ^ 4 :=
  ⟨toNat_extract_eq_div_mod w 14 15, toNat_extract_eq_div_mod w 4 10, toNat_extract_bottom w 4⟩

/-- Records are equal when their fields are equal as numbers. -/
theorem ContFields.eq_of_toNat_eq {a b : ContFields} (hexptr : a.cExptr.toNat = b.cExptr.toNat)
    (hclosure : a.cClosure.toNat = b.cClosure.toNat) (hnlocals : a.cNlocals.toNat = b.cNlocals.toNat) : a = b := by
  cases a
  cases b
  simp only [ContFields.mk.injEq, ← BitVec.toNat_inj]
  exact ⟨hexptr, hclosure, hnlocals⟩

@[simp] theorem contFields_encodeCont (c : ContFields) : contFields (encodeCont c) = c := by
  obtain ⟨hexptr, hclosure, hnlocals⟩ := contFields_toNat (encodeCont c)
  rw [encodeCont_toNat] at hexptr hclosure hnlocals
  apply ContFields.eq_of_toNat_eq <;> omega

theorem encodeCont_contFields {w : Word} (hw : w.toNat < 2 ^ 29) : encodeCont (contFields w) = w := by
  obtain ⟨hexptr, hclosure, hnlocals⟩ := contFields_toNat w
  apply BitVec.eq_of_toNat_eq
  rw [encodeCont_toNat, hexptr, hclosure, hnlocals]
  omega

/-- On a word of 29 bits, the row CONT reads the fields of that word. -/
theorem decodeAs_cont32_toNat (m : AluMap) {w : Word} (hw : w.toNat < 2 ^ 29) :
    decodeAs m .cont32 w.toNat = .ok (.cont (contFields w)) := by
  simp only [decodeAs, if_pos hw, BitVec.ofNat_toNat, BitVec.setWidth_eq]

/-- Settles O4: a record is a word of 29 bits, on which `contFields` and `encodeCont` are inverse to each other; a
longer word fails the decoder's first test and passes its second. -/
theorem continuationRecordLayout : Obligations.ContinuationRecordLayout := by
  unfold Obligations.ContinuationRecordLayout
  refine fun m => ⟨fun c => ⟨encodeCont_toNat c, ?_, contFields_encodeCont c⟩, fun w hw => ?_, fun w hlo hhi => ?_⟩
  · exact (decodeAs_cont32_toNat m (encodeCont_lt c)).trans (by rw [contFields_encodeCont])
  · obtain ⟨v, rfl⟩ : ∃ v : Word, v.toNat = w := ⟨BitVec.ofNat 32 w, Nat.mod_eq_of_lt (by omega)⟩
    exact ⟨contFields v, decodeAs_cont32_toNat m hw, congrArg BitVec.toNat (encodeCont_contFields hw)⟩
  · simp only [decodeAs, if_neg (Nat.not_lt.2 hlo), if_pos hhi]

end Sys2Proof
end

/-! The codes of the ALU (30_encoding.md R112): below 0x0C the operations, which read operands, from there on the
reserved codes, which read none. -/

section
namespace Sys2Proof

open Sys2Proof.Machine

theorem readsA_iff (a : AluOp) : readsA a = true ↔ ∃ f, a = .fn f := by
  cases a <;> simp [readsA]

theorem readsB_iff (a : AluOp) : readsB a = true ↔ readsA a = true ∧ a ≠ .fn .not := by
  cases a with
  | fn f => cases f <;> simp [readsA, readsB]
  | _ => simp [readsA, readsB]

section codes

variable (m : AluMap) {b : BitVec 8}

theorem ofBits_of_lt (hb : b.toNat < 12) : AluOp.ofBits m b = .fn (m[b.toNat]'hb) := dif_pos hb

/-- From 0x0C up a code is reserved, under every assignment. -/
theorem ofBits_ne_fn_of_ge (hb : 12 ≤ b.toNat) (f : AluFn) : AluOp.ofBits m b ≠ .fn f := by
  rw [AluOp.ofBits, dif_neg (Nat.not_lt.2 hb)]
  exact reserved_ne_fn b f

theorem readsA_ofBits_iff : readsA (AluOp.ofBits m b) = true ↔ b.toNat < 12 := by
  rw [readsA_iff]
  refine ⟨fun ⟨f, hf⟩ => ?_, fun hb => ⟨_, ofBits_of_lt m hb⟩⟩
  exact Nat.lt_of_not_le fun hb => ofBits_ne_fn_of_ge m hb f hf

end codes

/-- Of the default assignment, code 2 alone is NOT. -/
theorem ofBits_spec_eq_not_iff (b : BitVec 8) : AluOp.ofBits AluMap.spec b = .fn .not ↔ b = 0x02 := by
  revert b
  decide

/-- Settles O8: the codes below 0x0C are the assignment's entries, the others are reserved and read no operand. -/
theorem aluCodesOfTheTable : Obligations.AluCodesOfTheTable := by
  unfold Obligations.AluCodesOfTheTable
  refine fun b => ⟨fun hb => ?_, ofBits_ne_fn_of_ge _, readsA_ofBits_iff _, ?_⟩
  · rw [ofBits_of_lt _ hb, List.getD_eq_getElem _ _ hb]
    rfl
  · rw [readsB_iff, readsA_ofBits_iff, Ne, ofBits_spec_eq_not_iff]

end Sys2Proof
end

/-! What an instruction and a step can do (46_cycle_step.md): with no cycle supplied a refusal, else one cycle, which is
a fault of the old state or the commit of a safe cycle. -/

section
namespace Sys2Proof

open Sys2Proof.Machine Sys2Proof.Laws

/-- An instruction has controls, or is one of the three words. -/
theorem ctl_or_word (i : Instr) :
    (∃ c, i.ctl = some c) ∨ (∃ f, i = .instr f) ∨ (∃ e, i = .info e) ∨ ∃ k, i = .cont k := by
  cases i <;> simp [Instr.ctl]

/-! ### With no cycle supplied -/

theorem exec_nil (i : Instr) {s : State} (hs : s.stim = []) : exec i s = .refused .noCycle := by
  obtain ⟨c, hi⟩ | ⟨f, rfl⟩ | ⟨e, rfl⟩ | ⟨k, rfl⟩ := ctl_or_word i
  · rw [exec_of_ctl hi, runCtl, hs]
  · rw [exec, execInstr, hs]
  · rw [exec, execInfo, hs]
  · rw [exec, execCont, hs]

theorem step_nil {s : State} (hs : s.stim = []) : step s = .refused .noCycle := by
  simp only [step, fetchInstruction, hs]

/-! ### With a cycle supplied -/

section supplied

variable {s : State} {inp : CycleIn} {rest : List CycleIn} (hs : s.stim = inp :: rest)
include hs

/-- Every instruction is one cycle of some words and controls. -/
theorem exec_eq_cycle (i : Instr) : ∃ f e k c, exec i s = cycle f e k c inp s := by
  obtain ⟨c, hi⟩ | ⟨f, rfl⟩ | ⟨e, rfl⟩ | ⟨k, rfl⟩ := ctl_or_word i
  · exact ⟨_, _, _, c, by rw [exec_of_ctl hi, runCtl_cons hs]⟩
  · exact ⟨_, _, _, _, execInstr_cons hs⟩
  · exact ⟨_, _, _, _, execInfo_cons hs⟩
  · exact ⟨_, _, _, _, execCont_cons hs⟩

/-- A step is the cycle of the words and controls of its state and inputs. -/
theorem step_eq_cycle :
    step s = cycle (fetchFields s) (infoFields s inp) (contNow s inp) (ctlOf s inp) inp s := by
  rw [step_cons hs, runCtl_cons hs]

theorem step_eq_next_iff {t : State} :
    step s = .next t ↔ CycleOk (fetchFields s) (ctlOf s inp) inp s ∧
      t = commit (fetchFields s) (infoFields s inp) (contNow s inp) (ctlOf s inp) inp s := by
  rw [step_eq_cycle hs, cycle_eq_next_iff]

end supplied

/-- A step that answers a next state had a cycle, which was safe, and committed it. -/
theorem exists_commit_of_step {s t : State} (h : step s = .next t) :
    ∃ inp rest, s.stim = inp :: rest ∧ CycleOk (fetchFields s) (ctlOf s inp) inp s ∧
      t = commit (fetchFields s) (infoFields s inp) (contNow s inp) (ctlOf s inp) inp s := by
  cases hs : s.stim with
  | nil => rw [step_nil hs] at h; cases h
  | cons inp rest => exact ⟨inp, rest, rfl, (step_eq_next_iff hs).1 h⟩

/-- Whatever check fails first, the fault records the state of the cycle, and the check of the ranges never fails. -/
theorem firstFault_records_state {f : InstrFields} {c : Ctl} {inp : CycleIn} {s : State} :
    ∀ φ, firstFault f c inp s = some φ → faultState φ = s ∧ faultCode φ ≠ 7 := by
  simp only [firstFault, check_some_forall, accessesInRange_true]
  simp [faultState, faultCode]

/-- The low bits of the heap word address the info table. -/
theorem infoAddr_toNat (inp : CycleIn) : (infoAddr inp).toNat = inp.heapOut.toNat % 2 ^ 10 :=
  toNat_extract_bottom inp.heapOut 10

/-- Settles O9: the lead row and the fetched word stand in the cycle of the host's controls. -/
theorem stepRunsTheDecodedInstruction : Obligations.StepRunsTheDecodedInstruction := by
  unfold Obligations.StepRunsTheDecodedInstruction
  refine ⟨fun s hs => step_nil hs, fun s inp rest hs => ⟨?_, ?_⟩⟩
  · rw [step, fetchInstruction, hs]
  · exact (step_eq_cycle hs).trans (execInstr_cons hs).symm

/-- Settles O10: a reading has the controls of the vector, and each of the three words is the one the cycle has in that
place. -/
theorem everyRowOfACycleIsTheSameCycle : Obligations.EveryRowOfACycleIsTheSameCycle := by
  unfold Obligations.EveryRowOfACycleIsTheSameCycle
  rintro s inp rest i hs (hi | rfl | rfl | rfl)
  · rw [exec_of_ctl ((mem_rows_iff _ i).1 hi), step_cons hs, ctlOf]
  · exact (execInstr_cons hs).trans (step_eq_cycle hs).symm
  · rw [← infoAddr_toNat]
    exact (execInfo_cons hs).trans (step_eq_cycle hs).symm
  · exact (execCont_cons hs).trans (step_eq_cycle hs).symm

/-- Settles O11: a step with a cycle answers a next state exactly when the cycle is safe. -/
theorem cycleCompletesExactlyWhenSafe : Obligations.CycleCompletesExactlyWhenSafe := by
  unfold Obligations.CycleCompletesExactlyWhenSafe
  intro s inp rest hs
  simp only [step_eq_next_iff hs, exists_and_left, exists_eq, and_true]

/-- Settles O13: an instruction that faults has a cycle, whose first failing check recorded the state. -/
theorem faultRecordsTheStateOfItsCycle : Obligations.FaultRecordsTheStateOfItsCycle := by
  unfold Obligations.FaultRecordsTheStateOfItsCycle
  intro i s φ h
  cases hs : s.stim with
  | nil => rw [exec_nil i hs] at h; cases h
  | cons inp rest =>
    obtain ⟨f, e, k, c, hcycle⟩ := exec_eq_cycle hs i
    rw [hcycle, cycle_eq_fault_iff] at h
    exact firstFault_records_state φ h

/-- Settles O14: with no cycle every instruction is refused, and a cycle never refuses. -/
theorem onlyTheEndOfTheRunIsRefused : Obligations.OnlyTheEndOfTheRunIsRefused := by
  unfold Obligations.OnlyTheEndOfTheRunIsRefused
  intro i s r
  cases hs : s.stim with
  | nil => simp [exec_nil i hs, eq_comm]
  | cons inp rest =>
    obtain ⟨f, e, k, c, hcycle⟩ := exec_eq_cycle hs i
    simp [hcycle, cycle_ne_refused]

end Sys2Proof
end

/-! What a commit leaves in the slots of the stack and of the argument banks (43_eval_stack.md, 44_arg_bank.md), and the
three invariants. -/

section
namespace Sys2Proof

open Sys2Proof.Machine Sys2Proof.Laws

section slots

variable (f : InstrFields) (e : InfoFields) (k : ContFields) (c : Ctl) (inp : CycleIn) (s : State)

/-- A stack slot that is not pushed keeps its word and its tag. -/
theorem commit_stack_of_not_pushed {a : SAddr} (ha : c.k = .wv ∨ c.k = .wc → a ≠ s.sp + 1) :
    stkRead (commit f e k c inp s) a = stkRead s a ∧ stkTag (commit f e k c inp s) a = stkTag s a := by
  have slot : Memory.lookup (commit f e k c inp s).stk a.toNat = Memory.lookup s.stk a.toNat := by
    rw [lookup_commit]
    split
    · cases hk : c.k <;> simp_all
    · rfl
  simp only [stkRead, stkTag, slot, and_self]

/-- A push of a value leaves the data value above the old top, tagged so. -/
theorem commit_stack_of_wv (hk : c.k = .wv) :
    stkRead (commit f e k c inp s) (s.sp + 1) = dataValue c.d f inp s ∧
      stkTag (commit f e k c inp s) (s.sp + 1) = .value :=
  (commit_delivered f e k c inp s fun _ => rfl).pushed hk

/-- A push of a continuation leaves the record's word above the old top, tagged so. -/
theorem commit_stack_of_wc (hk : c.k = .wc) :
    stkRead (commit f e k c inp s) (s.sp + 1) = encodeCont k ∧
      stkTag (commit f e k c inp s) (s.sp + 1) = .cont := by
  have slot := lookup_commit f e k c inp s (s.sp + 1)
  rw [if_pos rfl] at slot
  simp only [stkRead, stkTag, slot, hk, and_self]

/-- An argument slot that is not written keeps its word and its flag. -/
theorem commit_argument_of_not_written {b : Bool} {i : BitVec 3}
    (h : c.g = .we ∨ c.g = .weSw → ¬ (b = s.bstate ∧ i = s.acount)) :
    argRead (commit f e k c inp s) b i = argRead s b i ∧
      argWritten (commit f e k c inp s) b i = argWritten s b i := by
  have slot := slot_commit f e k c inp s b i
  rw [if_neg fun hw => h hw.1 hw.2] at slot
  have hwritten : argWritten (commit f e k c inp s) b i = argWritten s b i := congrArg ArgSlot.written slot
  exact ⟨by rw [argRead, hwritten, slot, argRead], hwritten⟩

/-- An argument write leaves the data value at the old counter of the old write bank, written. -/
theorem commit_argument_of_write (hg : c.g = .we ∨ c.g = .weSw) :
    argRead (commit f e k c inp s) s.bstate s.acount = dataValue c.d f inp s ∧
      argWritten (commit f e k c inp s) s.bstate s.acount = true :=
  (commit_delivered f e k c inp s fun _ => rfl).argument hg

/-- A slot once written stays written. -/
theorem commit_keeps_argWritten {b : Bool} {i : BitVec 3} (h : argWritten s b i = true) :
    argWritten (commit f e k c inp s) b i = true := by
  rw [argWritten, slot_commit]
  split
  · rfl
  · exact h

end slots

/-- Below the new pointer, every slot but the one pushed was below the old pointer. -/
theorem le_sp_of_le_nextSp {f : InstrFields} {c : Ctl} {inp : CycleIn} {s : State} (ok : CycleOk f c inp s) {a : SAddr}
    (hne : c.k = .wv ∨ c.k = .wc → a ≠ s.sp + 1) (ha : a.toNat ≤ (nextSp c.k inp s).toNat) :
    a.toNat ≤ s.sp.toNat := by
  by_cases hpush : c.k = .wv ∨ c.k = .wc
  · have hsp := nextSp_push_toNat ok hpush
    have hover := ok.noOverflow hpush
    have hne := hne hpush
    bv_omega
  · cases hk : c.k with
    | hold => simpa only [hk, nextSp] using ha
    | wv => exact absurd (.inl hk) hpush
    | wc => exact absurd (.inr hk) hpush
    | dec => have := nextSp_dec_toNat ok hk; omega
    | clr => have := nextSp_clr_toNat ok hk; omega
    | conflict b => exact absurd hk (ok.oneStackControl b)

/-- Settles O51: a commit writes no image, and the stack at an address of 15 bits alone. -/
theorem stepKeepsTheMemoriesCanonical : Obligations.StepKeepsTheMemoriesCanonical := by
  unfold Obligations.StepKeepsTheMemoriesCanonical
  intro s t hwf hstep
  obtain ⟨inp, rest, -, -, rfl⟩ := exists_commit_of_step hstep
  obtain ⟨himem, hitab, hstk⟩ := hwf
  refine ⟨himem, hitab, ?_⟩
  rw [commit_stk]
  cases (ctlOf s inp).k with
  | wv | wc => exact wf_stkWrite hstk
  | _ => exact hstk

/-- With the counters at 0 nothing has been written since the flip. -/
theorem argInv_of_zero {t : State} (hcount : t.acount = 0) (hwrites : t.awrites = 0) : ArgInv t := by
  refine ⟨by omega, by rw [hcount, hwrites]; rfl, fun i hi => ?_⟩
  omega

/-- Settles O52: a switch resets both counters; a write that is none of a ninth fills the slot at the counter and
moves both counters on; otherwise nothing changes. -/
theorem stepKeepsTheArgumentCounter : Obligations.StepKeepsTheArgumentCounter := by
  unfold Obligations.StepKeepsTheArgumentCounter
  intro s t inv hstep
  obtain ⟨inp, rest, -, ok, rfl⟩ := exists_commit_of_step hstep
  obtain ⟨hbounded, hcounter, hassembled⟩ := inv
  cases hg : (ctlOf s inp).g with
  | sw => exact argInv_of_zero (nextAcount_of_switch s (.inl hg)) (nextAwrites_of_switch s (.inl hg))
  | weSw => exact argInv_of_zero (nextAcount_of_switch s (.inr hg)) (nextAwrites_of_switch s (.inr hg))
  | hold =>
    constructor <;> simp only [commit_awrites, commit_acount, commit_bstate, hg, nextAwrites, nextAcount, nextBstate]
    · exact hbounded
    · exact hcounter
    · exact fun i hi => commit_keeps_argWritten _ _ _ _ _ _ (hassembled i hi)
  | we =>
    have hroom := ok.noArgOverflow (.inl hg)
    have hwritten := (commit_argument_of_write (fetchFields s) (infoFields s inp) (contNow s inp) _ inp s (.inl hg)).2
    constructor <;> simp only [commit_awrites, commit_acount, commit_bstate, hg, nextAwrites, nextAcount, nextBstate]
    · omega
    · rw [hcounter, BitVec.ofNat_add]
      rfl
    · intro i hi
      by_cases hi' : i.toNat < s.awrites
      · exact commit_keeps_argWritten _ _ _ _ _ _ (hassembled i hi')
      · have hlast : i = s.acount := by
          rw [hcounter]
          bv_omega
        rw [hlast]
        exact hwritten

/-- Settles O53: a push writes the slot above the old top, never slot 0, and a continuation as a record of 29 bits;
every other slot keeps its word and tag, and those below the new top were below the old one. -/
theorem stepKeepsTheStackDiscipline : Obligations.StepKeepsTheStackDiscipline := by
  unfold Obligations.StepKeepsTheStackDiscipline
  intro s t inv hstep
  obtain ⟨inp, rest, -, ok, rfl⟩ := exists_commit_of_step hstep
  obtain ⟨hzero, hpushed, hrecord⟩ := inv
  have hkept {a : SAddr} (ha : (ctlOf s inp).k = .wv ∨ (ctlOf s inp).k = .wc → a ≠ s.sp + 1) :=
    commit_stack_of_not_pushed (fetchFields s) (infoFields s inp) (contNow s inp) (ctlOf s inp) inp s ha
  have hvalue := commit_stack_of_wv (fetchFields s) (infoFields s inp) (contNow s inp) (ctlOf s inp) inp s
  have hcont := commit_stack_of_wc (fetchFields s) (infoFields s inp) (contNow s inp) (ctlOf s inp) inp s
  refine ⟨?zero, fun a ha0 ha => ?pushed, fun a ha => ?record⟩
  case zero =>
    rw [(hkept fun hpush => ?_).2, hzero]
    have hsp := ok.noOverflow hpush
    bv_omega
  case pushed =>
    by_cases hne : (ctlOf s inp).k = .wv ∨ (ctlOf s inp).k = .wc → a ≠ s.sp + 1
    · rw [(hkept hne).2]
      exact hpushed a ha0 (le_sp_of_le_nextSp ok hne ha)
    · obtain ⟨hk | hk, rfl⟩ : ((ctlOf s inp).k = .wv ∨ (ctlOf s inp).k = .wc) ∧ a = s.sp + 1 := by tauto
      · rw [(hvalue hk).2]; exact nofun
      · rw [(hcont hk).2]; exact nofun
  case record =>
    by_cases hne : (ctlOf s inp).k = .wv ∨ (ctlOf s inp).k = .wc → a ≠ s.sp + 1
    · rw [(hkept hne).2] at ha
      rw [(hkept hne).1]
      exact hrecord a ha
    · obtain ⟨hk | hk, rfl⟩ : ((ctlOf s inp).k = .wv ∨ (ctlOf s inp).k = .wc) ∧ a = s.sp + 1 := by tauto
      · rw [(hvalue hk).2] at ha; cases ha
      · rw [(hcont hk).1]; exact encodeCont_lt _

/-- Settles O15: the reset state lists no stack slot, and both its banks hold the reset slot throughout. -/
theorem resetStateValues : Obligations.ResetStateValues := by
  unfold Obligations.ResetStateValues
  have hbank : ∀ i : BitVec 3, (Bank.reset[i.toNat]'i.isLt).written = false := by decide
  refine ⟨rfl, rfl, rfl, rfl, rfl, rfl, fun a => rfl, fun b i => ?_⟩
  cases b <;> exact hbank i

/-- Settles O54: at reset the counters are 0 and no stack slot is written. -/
theorem resetMeetsTheInvariants : Obligations.ResetMeetsTheInvariants := by
  unfold Obligations.ResetMeetsTheInvariants
  refine ⟨reset_memWf, argInv_of_zero rfl rfl, ⟨rfl, fun a ha0 ha => ?_, fun a ha => nomatch ha⟩⟩
  exact absurd (BitVec.eq_of_toNat_eq (Nat.le_zero.1 ha)) ha0

end Sys2Proof
end

/-! What a cycle consumes (41_data_source_mux.md R178, 45_alu_return.md R280): in a safe cycle every consumed argument
slot is written, so its word is the bound argument; a commit depends on the words it consumes alone. -/

section
namespace Sys2Proof

open Sys2Proof.Machine Sys2Proof.Laws

/-- The bound arguments are the words of the read bank. -/
theorem boundArg_eq_bank (s : State) (i : BitVec 3) :
    boundArg s i = ((bank s (!s.bstate))[i.toNat]'i.isLt).val := by
  unfold boundArg bank
  cases s.bstate <;> rfl

theorem dvUsed_iff (c : Ctl) : dvUsed c = true ↔ c.k = .wv ∨ c.g = .we ∨ c.g = .weSw ∨ c.r = .ldDv := by
  simp [dvUsed, or_assoc]

/-- The ALU's output depends on the operands its operation reads alone. -/
theorem aluOut_congr {op : AluOp} {a a' b b' : Word} (signed : Bool) (ha : readsA op = true → a = a')
    (hb : readsB op = true → b = b') : aluOut signed op a b = aluOut signed op a' b' := by
  cases op with
  | fn f =>
    rw [ha rfl]
    cases f with
    | not => rfl
    | _ => rw [hb rfl]
  | _ => rfl

section consumed

variable {f : InstrFields} {c : Ctl} {inp : CycleIn} {s : State} (ok : CycleOk f c inp s)
include ok

/-- A consumed argument port shows the bound argument. -/
theorem dataValue_arg_of_ok (hd : c.d = .arg) (hu : dvUsed c = true) :
    dataValue c.d f inp s = boundArg s f.argindex := by
  rw [hd]
  exact argRead_of_written (ok.argumentWritten hd ((dvUsed_iff c).1 hu))

/-- An ALU load computes with the bound arguments. -/
theorem aluOut_of_ok (hr : c.r = .ldAlu) :
    aluOut s.cfg.cmpSigned c.a (opA s) (opB s) = aluOut s.cfg.cmpSigned c.a (boundArg s 0) (boundArg s 1) :=
  aluOut_congr _ (fun ha => argRead_of_written (ok.operandAWritten hr ha))
    (fun hb => argRead_of_written (ok.operandBWritten hr hb))

/-- An ALU load latches the output for the bound arguments. -/
theorem commit_ret_of_ldAlu (e : InfoFields) (k : ContFields) (hr : c.r = .ldAlu) :
    (commit f e k c inp s).ret = aluOut s.cfg.cmpSigned c.a (boundArg s 0) (boundArg s 1) := by
  rw [← aluOut_of_ok ok hr, commit_ret, hr, nextRet]

/-- The argument port delivers the bound argument. -/
theorem commit_delivers_boundArg (e : InfoFields) (k : ContFields) (hd : c.d = .arg) :
    Delivered (boundArg s f.argindex) c.g c.r c.k s (commit f e k c inp s) :=
  commit_delivered f e k c inp s fun hu => dataValue_arg_of_ok ok hd ((dvUsed_iff c).2 hu)

end consumed

/-! ### Congruence: what a commit does not consume has no effect on it -/

theorem nextStk_congr {k : StkOp} {dv dv' cw cw' : Word} (hdv : k = .wv → dv = dv') (hcw : k = .wc → cw = cw')
    (s : State) : nextStk k dv cw s = nextStk k dv' cw' s := by
  cases k with
  | wv => rw [hdv rfl, nextStk, nextStk]
  | wc => rw [hcw rfl, nextStk, nextStk]
  | _ => rfl

theorem nextBank_congr {g : ArgOp} {dv dv' : Word} (hdv : g = .we ∨ g = .weSw → dv = dv') (b : Bool) (s : State) :
    nextBank b g dv s = nextBank b g dv' s := by
  cases g with
  | we => rw [hdv (.inl rfl)]
  | weSw => rw [hdv (.inr rfl)]
  | _ => rfl

theorem nextRet_congr {r : RetOp} {dv dv' alu alu' : Word} {s t : State} (hdv : r = .ldDv → dv = dv')
    (halu : r = .ldAlu → alu = alu') (hret : s.ret = t.ret) : nextRet r dv alu s = nextRet r dv' alu' t := by
  cases r with
  | ldDv => exact hdv rfl
  | ldAlu => exact halu rfl
  | hold b => exact hret

theorem nextSp_congr {k : StkOp} {inp inp' : CycleIn} (hn : k = .clr → inp.nLocals = inp'.nLocals) (s : State) :
    nextSp k inp s = nextSp k inp' s := by
  cases k with
  | clr => rw [nextSp, hn rfl, nextSp]
  | _ => rfl

/-- Two cycles of the same controls commit the same where the words they consume are the same. -/
theorem commit_congr {f f' : InstrFields} {e e' : InfoFields} {k k' : ContFields} {c : Ctl} {inp inp' : CycleIn}
    {s : State} (hdv : dvUsed c = true → dataValue c.d f inp s = dataValue c.d f' inp' s)
    (hx : nextExptr c.x f e s = nextExptr c.x f' e' s) (hk : c.k = .wc → k = k')
    (hn : c.k = .clr → inp.nLocals = inp'.nLocals) : commit f e k c inp s = commit f' e' k' c inp' s := by
  rw [dvUsed_iff] at hdv
  have hbank (b : Bool) := nextBank_congr (fun hg => hdv (.inr (hg.elim .inl fun h => .inr (.inl h)))) b s
  simp only [commit, hx, nextSp_congr hn s, hbank,
    nextStk_congr (fun h => hdv (.inl h)) (fun h => congrArg encodeCont (hk h)) s,
    nextRet_congr (s := s) (fun h => hdv (.inr (.inr (.inr h)))) (fun _ => rfl) rfl]

end Sys2Proof
end

/-! The shadow state (10_state.md section 8): states that agree on the hardware show the same words in every slot a safe
cycle consumes, so their commits agree again. -/

section
namespace Sys2Proof

open Sys2Proof.Machine Sys2Proof.Laws

/-- What a stack slot shows is its word if it is listed, whatever the tag. -/
theorem stkRead_eq_getD (s : State) (a : SAddr) :
    stkRead s a = ((Memory.lookup s.stk a.toNat).map StkCell.word).getD (Config.freeStk a) := by
  rw [stkRead]
  cases Memory.lookup s.stk a.toNat <;> rfl

theorem lookup_nextStk_congr {s t : State} (hsp : s.sp = t.sp) {dv dv' : Word} {k : StkOp} (hdv : k = .wv → dv = dv')
    (hstk : ∀ a, (Memory.lookup s.stk a).map StkCell.word = (Memory.lookup t.stk a).map StkCell.word) (cw : Word)
    (a : Nat) :
    (Memory.lookup (nextStk k dv cw s) a).map StkCell.word =
      (Memory.lookup (nextStk k dv' cw t) a).map StkCell.word := by
  cases k with
  | wv | wc =>
    simp only [nextStk, stkWrite, lookup_insert, hsp, hdv]
    split
    · rfl
    · exact hstk a
  | _ => exact hstk a

section shadow

variable {s t : State} (h : SameHardware s t)
include h

theorem SameHardware.boundArg_eq (i : BitVec 3) : boundArg s i = boundArg t i := by
  rw [boundArg_eq_bank, boundArg_eq_bank, h.args, h.bstate]

theorem SameHardware.tos_eq : tos s = tos t := by
  rw [tos, tos, stkRead_eq_getD, stkRead_eq_getD, h.stk, h.sp]

theorem SameHardware.nextExptr_eq (x : XOp) (f : InstrFields) (e : InfoFields) :
    nextExptr x f e s = nextExptr x f e t := by
  cases x <;> simp only [nextExptr, h.exptr, h.tos_eq]

theorem SameHardware.dataValue_eq {f : InstrFields} {c : Ctl} {inp : CycleIn} (oks : CycleOk f c inp s)
    (okt : CycleOk f c inp t) (hu : dvUsed c = true) : dataValue c.d f inp s = dataValue c.d f inp t := by
  cases hd : c.d with
  | arg => rw [← hd, dataValue_arg_of_ok oks hd hu, dataValue_arg_of_ok okt hd hu, h.boundArg_eq]
  | ret => exact h.ret
  | _ => rfl

/-- A cycle that is safe in both states commits the same hardware. -/
theorem SameHardware.commit {f : InstrFields} {e : InfoFields} {k : ContFields} {c : Ctl} {inp : CycleIn}
    (oks : CycleOk f c inp s) (okt : CycleOk f c inp t) :
    SameHardware (commit f e k c inp s) (commit f e k c inp t) := by
  have hdv := h.dataValue_eq oks okt
  rw [dvUsed_iff] at hdv
  constructor
  case exptr => exact h.nextExptr_eq c.x f e
  case sp => cases hk : c.k <;> simp only [commit_sp, hk, nextSp, h.sp]
  case stk => exact lookup_nextStk_congr h.sp (fun hk => hdv (.inl hk)) h.stk (encodeCont k)
  case args =>
    intro b i
    rw [slot_commit, slot_commit, h.bstate, h.acount]
    split
    · rename_i hwrite
      exact hdv (.inr (hwrite.1.elim .inl fun hg => .inr (.inl hg)))
    · exact h.args b i
  case bstate => cases hg : c.g <;> simp only [commit_bstate, hg, nextBstate, h.bstate]
  case acount => cases hg : c.g <;> simp only [commit_acount, hg, nextAcount, h.acount]
  case ret =>
    refine nextRet_congr (fun hr => hdv (.inr (.inr (.inr hr)))) (fun hr => ?_) h.ret
    rw [aluOut_of_ok oks hr, aluOut_of_ok okt hr, h.cfg, h.boundArg_eq, h.boundArg_eq]
  case imem => exact h.imem
  case itab => exact h.itab
  case cfg => exact h.cfg
  case stim => exact congrArg List.tail h.stim

end shadow

/-- Settles O50: states that agree on the hardware run the cycle of the same words and controls, and a cycle that is
safe in both commits the same hardware. -/
theorem shadowStateNeverChangesAValue : Obligations.ShadowStateNeverChangesAValue := by
  unfold Obligations.ShadowStateNeverChangesAValue
  intro s t s' t' h hs ht
  obtain ⟨inp, rest, hstim, oks, rfl⟩ := exists_commit_of_step hs
  obtain ⟨okt, rfl⟩ := (step_eq_next_iff (h.stim ▸ hstim)).1 ht
  have hfetch : fetchFields t = fetchFields s := by rw [fetchFields, fetchWord, fetchFields, fetchWord, h.imem, h.exptr]
  have hinfo : infoFields t inp = infoFields s inp := by rw [infoFields, infoWord, infoFields, infoWord, h.itab]
  have hcont : contNow t inp = contNow s inp := by rw [contNow, contNow, h.exptr, h.cfg]
  have hctl : ctlOf t inp = ctlOf s inp := by rw [ctlOf, ctlOf, h.cfg]
  rw [hfetch, hctl] at okt
  rw [hfetch, hinfo, hcont, hctl]
  exact h.commit oks okt

end Sys2Proof
end

/-! What does not matter to a cycle (R157, R178, R190, R280, R297), and what it leaves unchanged (46_cycle_step.md
R323). -/

section
namespace Sys2Proof

open Sys2Proof.Machine Sys2Proof.Laws

/-- The checks look at the argument index of the instruction word alone. -/
theorem firstFault_congr {f f' : InstrFields} (h : f.argindex = f'.argindex) (c : Ctl) (inp : CycleIn) (s : State) :
    firstFault f c inp s = firstFault f' c inp s := by
  simp only [firstFault, h]

/-- With `exptr` held, a cycle is the same for every `xsrc`. -/
theorem cycle_xsrc_of_hold {f : InstrFields} {e : InfoFields} {k : ContFields} {c : Ctl} {inp : CycleIn} {s : State}
    (n n' : BitVec 2) : cycle f e k { c with x := .hold n' } inp s = cycle f e k { c with x := .hold n } inp s :=
  cycle_congr (by simp [firstFault, dvUsed]) rfl

/-- Settles O48: one selector after the other is replaced, each by the lemma about its unit. -/
theorem unusedSelectorsDoNotMatter : Obligations.UnusedSelectorsDoNotMatter := by
  unfold Obligations.UnusedSelectorsDoNotMatter
  rintro i j ⟨x, d, a, g, r, k⟩ ⟨x', d', a', -, r', -⟩ s hi hj rfl rfl hx hr hd ha
  cases hs : s.stim with
  | nil => rw [exec_nil i hs, exec_nil j hs]
  | cons inp rest =>
    rw [exec_of_ctl hi, exec_of_ctl hj, runCtl_cons hs, runCtl_cons hs]
    dsimp only at hx hr hd ha
    generalize hrun : cycle (fetchFields s) (infoFields s inp) (contNow s inp) = run
    calc run ⟨x, d, a, g, r, k⟩ inp s
      _ = run ⟨x, d', a, g, r, k⟩ inp s := by
        obtain rfl | ⟨hk, hwe, hweSw, hldDv⟩ := hd
        · rfl
        · have hg : g = .hold ∨ g = .sw := by cases g <;> simp_all
          rw [← hrun]
          exact (cycle_dsrc_of_unused (c := ⟨x, d, a, g, r, k⟩) ((dvUsed_eq_false_iff _).2 ⟨hk, hg, hldDv⟩) d').symm
      _ = run ⟨x, d', a', g, r, k⟩ inp s := by
        obtain rfl | hldAlu := ha
        · rfl
        · rw [← hrun]
          exact (cycle_aluop_of_unused (c := ⟨x, d', a, g, r, k⟩) hldAlu a').symm
      _ = run ⟨x, d', a', g, r', k⟩ inp s := by
        obtain rfl | ⟨b, b', rfl, rfl⟩ := hr
        · rfl
        · rw [← hrun]
          exact cycle_alu2ret_of_hold (c := ⟨x, d', a', g, .hold b, k⟩) b' b
      _ = run ⟨x', d', a', g, r', k⟩ inp s := by
        obtain rfl | ⟨n, n', rfl, rfl⟩ := hx
        · rfl
        · rw [← hrun]
          exact cycle_xsrc_of_hold (c := ⟨.hold n, d', a', g, r', k⟩) n' n

theorem dataValue_congr {f f' : InstrFields} (hindex : f.argindex = f'.argindex) (himm : f.imm = f'.imm) (d : DOp)
    (inp : CycleIn) (s : State) : dataValue d f inp s = dataValue d f' inp s := by
  cases d with
  | arg => rw [dataValue, argPort, hindex, dataValue, argPort]
  | imm => rw [dataValue, himm, dataValue]
  | _ => rfl

theorem nextExptr_congr {x : XOp} {f f' : InstrFields} {e e' : InfoFields} (hn : x = .lit → f.nInstrs = f'.nInstrs)
    (hentry : x = .itab → e.entryCode = e'.entryCode) (s : State) : nextExptr x f e s = nextExptr x f' e' s := by
  cases x with
  | lit => rw [nextExptr, hn rfl, nextExptr]
  | itab => exact hentry rfl
  | _ => rfl

/-- Settles O45: the checks and the commit take `argindex`, `nInstrs` and `imm` of the instruction word, and `entryCode`
of the info-table word. -/
theorem otherDecodedFieldsDoNotMatter : Obligations.OtherDecodedFieldsDoNotMatter := by
  unfold Obligations.OtherDecodedFieldsDoNotMatter
  refine ⟨fun f f' s hindex hn himm => ?instr, fun e e' s hentry => ?info⟩
  case instr =>
    cases hs : s.stim with
    | nil => rw [exec_nil _ hs, exec_nil _ hs]
    | cons inp rest =>
      have hcommit : commit f (infoFields s inp) (contNow s inp) (ctlOf s inp) inp s =
          commit f' (infoFields s inp) (contNow s inp) (ctlOf s inp) inp s :=
        commit_congr (fun _ => dataValue_congr hindex himm _ inp s) (nextExptr_congr (fun _ => hn) (fun _ => rfl) s)
          (fun _ => rfl) (fun _ => rfl)
      rw [exec, exec, execInstr_cons hs, execInstr_cons hs, cycle, cycle, firstFault_congr hindex, hcommit]
  case info =>
    cases hs : s.stim with
    | nil => rw [exec_nil _ hs, exec_nil _ hs]
    | cons inp rest =>
      have hcommit : commit (fetchFields s) e (contNow s inp) (ctlOf s inp) inp s =
          commit (fetchFields s) e' (contNow s inp) (ctlOf s inp) inp s :=
        commit_congr (fun _ => rfl) (nextExptr_congr (fun _ => rfl) (fun _ => hentry) s) (fun _ => rfl) (fun _ => rfl)
      rw [exec, exec, execInfo_cons hs, execInfo_cons hs, cycle, cycle, hcommit]

section inputs

variable {f : InstrFields} {c : Ctl} {inp inp' : CycleIn} {s : State}

/-- The duties of the host look at `n_locals` alone of the data inputs, and that only to clear locals. -/
theorem CycleOk.of_inputs (ok : CycleOk f c inp s) (hn : c.k = .clr → inp'.nLocals = inp.nLocals)
    (stim : List CycleIn) : CycleOk f c inp' { s with stim := stim } :=
  { ok with noUnderflowClr := fun hk => by rw [hn hk]; exact ok.noUnderflowClr hk }

/-- A commit uses one cycle up and looks at none of the coming ones. -/
theorem commit_setStim (e : InfoFields) (k : ContFields) (stim : List CycleIn) :
    commit f e k c inp { s with stim := stim } = { commit f e k c inp s with stim := stim.tail } := rfl

end inputs

/-- The info-table word depends on the low bits of the heap word alone. -/
theorem infoFields_congr {inp inp' : CycleIn} (h : inp'.heapOut.toNat % 2 ^ 10 = inp.heapOut.toNat % 2 ^ 10)
    (s : State) : infoFields s inp' = infoFields s inp := by
  rw [infoFields, infoWord, infoAddr_toNat, h, ← infoAddr_toNat, infoFields, infoWord]

/-- Settles O49: the cycle stays safe, and what it consumes of the inputs is what was there before. -/
theorem unusedInputsDoNotMatter : Obligations.UnusedInputsDoNotMatter := by
  unfold Obligations.UnusedInputsDoNotMatter
  intro s t inp inp' rest hs hcv
  dsimp only
  intro hloc hheap hitab hnid hclosure hlocals hstep
  obtain ⟨ok, rfl⟩ := (step_eq_next_iff hs).1 hstep
  have hctl : ctlOf { s with stim := inp' :: rest } inp' = ctlOf s inp := by rw [ctlOf, ctlOf, hcv]
  rw [step_eq_next_iff (inp := inp') (rest := rest) rfl, hctl]
  refine ⟨ok.of_inputs (fun hk => hlocals (.inr hk)) _, ?_⟩
  have hcommit : commit (fetchFields s) (infoFields s inp) (contNow s inp) (ctlOf s inp) inp s =
      commit (fetchFields s) (infoFields s inp') (contNow s inp') (ctlOf s inp) inp' s := by
    refine commit_congr (fun hu => ?data) ?pointer (fun hk => ?record) fun hk => (hlocals (.inr hk)).symm
    case data =>
      rw [dvUsed_iff] at hu
      cases hd : (ctlOf s inp).d with
      | loc => exact (hloc hd hu).symm
      | heap => exact (hheap hd hu).symm
      | nid => rw [dataValue, dataValue, hnid hd hu]
      | _ => rfl
    case pointer =>
      exact nextExptr_congr (fun _ => rfl) (fun hx => by rw [infoFields_congr (hitab hx)]) s
    case record => rw [contNow, contNow, hclosure hk, hlocals (.inl hk)]
  obtain rfl : rest = s.stim.tail := by rw [hs, List.tail_cons]
  rw [hcommit, commit_setStim]
  rfl

/-- What every commit leaves unchanged. -/
theorem commit_frame (f : InstrFields) (e : InfoFields) (k : ContFields) (c : Ctl) (inp : CycleIn) (s : State) :
    Frame c s (commit f e k c inp s) where
  imem := rfl
  itab := rfl
  cfg := rfl
  stim := rfl
  exptr xsrc hx := by rw [commit_exptr, hx, nextExptr]
  sp hk := by rw [commit_sp, hk, nextSp]
  stack a := commit_stack_of_not_pushed f e k c inp s
  args b i := commit_argument_of_not_written f e k c inp s
  bstate hg := by rcases hg with hg | hg <;> rw [commit_bstate, hg, nextBstate]
  acount hg := by rw [commit_acount, commit_awrites, hg]; exact ⟨rfl, rfl⟩
  ret b hr := by rw [commit_ret, hr, nextRet]

/-- A cycle that answers a next state keeps the frame of its controls. -/
theorem frame_of_cycle {f : InstrFields} {e : InfoFields} {k : ContFields} {c : Ctl} {inp : CycleIn} {s t : State}
    (h : cycle f e k c inp s = .next t) : Frame c s t := by
  obtain ⟨-, rfl⟩ := cycle_eq_next_iff.1 h
  exact commit_frame f e k c inp s

/-- Settles O46: a row of format CTRL22 that answers a next state is a cycle of its controls. -/
theorem frameOfTheControlRows : Obligations.FrameOfTheControlRows := by
  unfold Obligations.FrameOfTheControlRows
  intro i c s t hi h
  cases hs : s.stim with
  | nil => rw [exec_nil i hs] at h; cases h
  | cons inp rest =>
    rw [exec_of_ctl hi, runCtl_cons hs] at h
    exact frame_of_cycle h

/-- Settles O47: each of the three words stands in a cycle of the host's controls. -/
theorem frameOfTheWordRows : Obligations.FrameOfTheWordRows := by
  unfold Obligations.FrameOfTheWordRows
  intro f e k s t inp rest hs
  rw [exec, exec, exec, execInstr_cons hs, execInfo_cons hs, execCont_cons hs]
  exact ⟨frame_of_cycle, frame_of_cycle, frame_of_cycle⟩

end Sys2Proof
end

/-! The checks of a cycle on the bits of its control vector (46_cycle_step.md R322, 30_encoding.md R114). -/

section
namespace Sys2Proof

open Sys2Proof.Machine Sys2Proof.Laws

/-! ### A chain of checks, and the outcome it stands for -/

/-- The outcome of a cycle whose first failing check is `check`. -/
def Reported (o : Host.Outcome State Fault Refusal) (check : Option Fault) : Prop :=
  match check with
  | some φ => o = .fault φ
  | none => ∃ t, o = .next t

theorem cycle_reported (f : InstrFields) (e : InfoFields) (k : ContFields) (c : Ctl) (inp : CycleIn) (s : State) :
    Reported (cycle f e k c inp s) (firstFault f c inp s) := by
  unfold cycle
  cases firstFault f c inp s with
  | some φ => exact rfl
  | none => exact ⟨_, rfl⟩

theorem reported_none (o : Host.Outcome State Fault Refusal) : Reported o none ↔ ∃ t, o = .next t := Iff.rfl

/-- A chain of checks reports its first answer where the first check holds, and else what the rest reports. -/
theorem reported_check (o : Host.Outcome State Fault Refusal) (p : Prop) [Decidable p] (φ : Fault)
    (rest : Option Fault) :
    Reported o (if p then some φ else rest) ↔ if p then o = .fault φ else Reported o rest := by
  split <;> rfl

/-! ### The signals of a unit, on the bits of its operation -/

/-- Two or more asserted stack signals are a conflict. -/
theorem stackConflict_iff_two_signals {k : StkOp} (hk : k.wf = true) :
    stackConflict k = true ↔
      2 ≤ (k.bits.getLsbD 0).toNat + (k.bits.getLsbD 1).toNat + (k.bits.getLsbD 2).toNat +
        (k.bits.getLsbD 3).toNat := by
  cases k with
  | conflict b => revert b; decide
  | _ => decide

/-- With at most one stack signal asserted, it is the operation. -/
theorem stackSignals_of_no_conflict {k : StkOp} (hk : ¬ stackConflict k = true) :
    k.bits.getLsbD 0 = (k == .dec) ∧ k.bits.getLsbD 1 = (k == .clr) ∧ k.bits.getLsbD 2 = (k == .wv) ∧
      k.bits.getLsbD 3 = (k == .wc) := by
  cases k with
  | conflict b => exact absurd rfl hk
  | _ => decide

theorem argWe_eq (g : ArgOp) : g.bits.getLsbD 0 = (g == .we || g == .weSw) := by
  cases g <;> decide

theorem retSignals_dv_iff (r : RetOp) : r = .ldDv ↔ r.bits.getLsbD 1 = true ∧ r.bits.getLsbD 0 = false := by
  cases r with
  | hold b => cases b <;> decide
  | _ => decide

theorem retSignals_alu_iff (r : RetOp) : r = .ldAlu ↔ r.bits.getLsbD 1 = true ∧ r.bits.getLsbD 0 = true := by
  cases r with
  | hold b => cases b <;> decide
  | _ => decide

theorem xOp_eq_cont_iff (x : XOp) : x = .cont ↔ x.bits = 7 := by
  cases x with
  | hold xsrc => revert xsrc; decide
  | _ => decide

theorem dOp_eq_arg_iff (d : DOp) : d = .arg ↔ d.bits = 1 := by
  cases d with
  | rsv b => revert b; decide
  | _ => decide

/-! ### The bits of the host's vector -/

section vector

variable (s : State) (inp : CycleIn)

theorem ctlOf_x_bits : (ctlOf s inp).x.bits = inp.cv.extractLsb' 0 3 := xOp_bits_ofBits _

theorem ctlOf_d_bits : (ctlOf s inp).d.bits = inp.cv.extractLsb' 3 3 := dOp_bits_ofBits _

theorem getLsbD_argSignal {i : Nat} (hi : i < 2) : inp.cv.getLsbD (14 + i) = (ctlOf s inp).g.bits.getLsbD i := by
  have hbits : (ctlOf s inp).g.bits = inp.cv.extractLsb' 14 2 := argOp_bits_ofBits _
  simp [hbits, hi]

theorem getLsbD_retSignal {i : Nat} (hi : i < 2) : inp.cv.getLsbD (16 + i) = (ctlOf s inp).r.bits.getLsbD i := by
  have hbits : (ctlOf s inp).r.bits = inp.cv.extractLsb' 16 2 := retOp_bits_ofBits _
  simp [hbits, hi]

theorem ctlOf_k_wf : (ctlOf s inp).k.wf = true := stkOp_wf_ofBits _

end vector

/-- The argument index is the word modulo 8. -/
theorem fetchFields_argindex (s : State) : (fetchFields s).argindex = BitVec.ofNat 3 (fetchWord s).toNat := by
  apply BitVec.eq_of_toNat_eq
  rw [BitVec.toNat_ofNat]
  exact toNat_extract_bottom (fetchWord s) 3

/-- Settles O12: two stack signals are a conflict; with at most one, each condition on the bits is the check of
`firstFault` in its place. -/
theorem firstFailingCheckIsReported : Obligations.FirstFailingCheckIsReported := by
  unfold Obligations.FirstFailingCheckIsReported
  intro s inp rest hs
  have hreport := cycle_reported (fetchFields s) (infoFields s inp) (contNow s inp) (ctlOf s inp) inp s
  rw [← step_eq_cycle hs] at hreport
  have hdec := getLsbD_stackSignal s inp (i := 0) (by decide)
  have hclr := getLsbD_stackSignal s inp (i := 1) (by decide)
  have hwv := getLsbD_stackSignal s inp (i := 2) (by decide)
  have hwc := getLsbD_stackSignal s inp (i := 3) (by decide)
  have hwe := getLsbD_argSignal s inp (i := 0) (by decide)
  have ha2r := getLsbD_retSignal s inp (i := 0) (by decide)
  have hld := getLsbD_retSignal s inp (i := 1) (by decide)
  have hop : AluOp.ofBits s.cfg.aluOpMap (inp.cv.extractLsb' 6 8) = (ctlOf s inp).a := rfl
  simp only [hdec, hclr, hwv, hwc, hwe, ha2r, hld, hop, ← ctlOf_x_bits s, ← ctlOf_d_bits s, ← xOp_eq_cont_iff,
    ← dOp_eq_arg_iff, ← fetchFields_argindex, ← stackConflict_iff_two_signals (ctlOf_k_wf s inp)]
  simp only [firstFault, reported_check, readBank] at hreport
  by_cases hconflict : stackConflict (ctlOf s inp).k = true
  · rw [if_pos hconflict] at hreport ⊢
    exact hreport
  · obtain ⟨kdec, kclr, kwv, kwc⟩ := stackSignals_of_no_conflict hconflict
    simp only [kdec, kclr, kwv, kwc, argWe_eq, beq_iff_eq, Bool.or_eq_true]
    simp only [dvUsed, Bool.and_eq_true, Bool.or_eq_true, beq_iff_eq, decide_eq_true_eq, Bool.not_eq_true',
      retSignals_dv_iff, retSignals_alu_iff, accessesInRange_true, and_assoc, or_assoc, reported_check, reported_none,
      Bool.true_eq_false, if_false] at hreport ⊢
    exact hreport

end Sys2Proof
end

/-! Boot (70_reset_and_hazards.md R382, R383): the configuration check, and what a loaded image reads. -/

section
namespace Sys2Proof

open Sys2Proof.Machine Sys2Proof.Laws

theorem boot_fixed (p : Params) (imem : List (IAddr × Word)) (itab : List (TAddr × Word)) :
    boot Widths.fixed p imem itab =
      .ok { State.reset with cfg := p, imem := loadImage imem, itab := loadImage itab } := rfl

section image

variable {n : Nat}

theorem loadImage_concat (words : List (BitVec n × Word)) (w : BitVec n × Word) :
    loadImage (words ++ [w]) = Image.load (loadImage words) w.1.toNat w.2 := by
  simp only [loadImage, List.foldl_append, List.foldl_cons, List.foldl_nil]

/-- A loaded image reads, at each address, the last word given for it. -/
theorem read_loadImage (words : List (BitVec n × Word)) (a : BitVec n) :
    Image.read (loadImage words) a.toNat =
      ((words.reverse.find? (fun c => c.1 == a)).map Prod.snd).getD unlistedWord := by
  induction words using List.reverseRecOn with
  | nil => rfl
  | append_singleton words w ih =>
    rw [loadImage_concat, image_read_load, List.reverse_concat, List.find?_cons, ih]
    by_cases h : w.1 = a
    · rw [if_pos (congrArg BitVec.toNat h.symm), beq_iff_eq.2 h]
      rfl
    · have hne : a.toNat ≠ w.1.toNat := fun h' => h (BitVec.eq_of_toNat_eq h'.symm)
      rw [if_neg hne, beq_false_of_ne h]

theorem wf_loadImage (words : List (BitVec n × Word)) : Image.wf (2 ^ n) (loadImage words) := by
  induction words using List.reverseRecOn with
  | nil => exact ⟨⟨List.Pairwise.nil, nofun⟩, nofun⟩
  | append_singleton words w ih =>
    rw [loadImage_concat]
    exact image_wf_load ih w.1.isLt

end image

/-- Settles O16: `validate` tests W_ID first, and the fixed widths pass both tests. -/
theorem bootValidatesTheConfiguration : Obligations.BootValidatesTheConfiguration := by
  unfold Obligations.BootValidatesTheConfiguration
  refine fun w p imem itab => ⟨fun hid => ?_, fun hid hit => ?_, _, boot_fixed p imem itab, rfl⟩
  · rw [boot, validate, if_pos hid]
  · rw [boot, validate, if_neg (Nat.not_lt.2 hid), if_pos hit]

/-- Settles O17: boot answers the reset state with the two loaded images, so the first fetch is at address 0. -/
theorem loadedImagesReadBack : Obligations.LoadedImagesReadBack := by
  unfold Obligations.LoadedImagesReadBack
  intro p imem itab s hboot
  rw [boot_fixed] at hboot
  obtain rfl := Except.ok.inj hboot
  exact ⟨read_loadImage imem, read_loadImage itab,
    ⟨wf_loadImage imem, wf_loadImage itab, reset_memWf.2.2⟩, rfl⟩

end Sys2Proof
end

/-! The ALU rows and the loads of the return register (45_alu_return.md): in a safe cycle an ALU load latches the output
for the two bound arguments. -/

section
namespace Sys2Proof

open Sys2Proof.Machine Sys2Proof.Laws

/-- A cycle whose first failing check is `φ` is that fault. -/
theorem exec_of_fault {i : Instr} {c : Ctl} {s : State} {inp : CycleIn} {rest : List CycleIn} {φ : Fault}
    (hi : i.ctl = some c) (hs : s.stim = inp :: rest) (h : firstFault (fetchFields s) c inp s = some φ) :
    exec i s = .fault φ := by
  rw [exec_of_ctl hi, runCtl_cons hs, cycle_eq_fault_iff, h]

/-- In a safe cycle, an ALU load of a row of format CTRL22 latches the output for the bound arguments. -/
theorem exec_latches_alu {i : Instr} {c : Ctl} {s : State} {inp : CycleIn} {rest : List CycleIn} {v : Word}
    (hi : i.ctl = some c) (hs : s.stim = inp :: rest)
    (hv : aluOut s.cfg.cmpSigned c.a (boundArg s 0) (boundArg s 1) = v) (ok : CycleOk (fetchFields s) c inp s) :
    ∃ t, exec i s = .next t ∧ (c.r = .ldAlu → t.ret = v) :=
  ⟨_, exec_of_ok hi hs ok, fun hr => by rw [commit_ret_of_ldAlu ok _ _ hr, hv]⟩

/-- Settles O18: the four operations on the bound arguments are the bitwise ones. -/
theorem aluBitwiseResults : Obligations.AluBitwiseResults := by
  unfold Obligations.AluBitwiseResults
  intro x d g r k s inp rest hs
  exact ⟨exec_latches_alu rfl hs rfl, exec_latches_alu rfl hs rfl, exec_latches_alu rfl hs rfl,
    exec_latches_alu rfl hs rfl⟩

/-- Settles O19: the output of ADD and of SUB, as a number. -/
theorem aluArithmeticResults : Obligations.AluArithmeticResults := by
  unfold Obligations.AluArithmeticResults
  intro x d g r k s inp rest hs
  refine ⟨fun ok => ?add, fun ok => ?sub⟩
  case add =>
    obtain ⟨t, hexec, hret⟩ :=
      exec_latches_alu (i := .aluAdd x d g r k) (v := boundArg s 0 + boundArg s 1) rfl hs rfl ok
    exact ⟨t, hexec, fun hr => by rw [hret hr, BitVec.toNat_add]⟩
  case sub =>
    obtain ⟨t, hexec, hret⟩ :=
      exec_latches_alu (i := .aluSub x d g r k) (v := boundArg s 0 - boundArg s 1) rfl hs rfl ok
    refine ⟨t, hexec, fun hr => ?_⟩
    rw [hret hr, BitVec.toNat_sub]
    omega

/-- The number a word stands for in an ordered comparison (decision D10). -/
def orderedNum (signed : Bool) (w : Word) : Int := if signed then w.toInt else w.toNat

theorem cmpLt_iff (signed : Bool) (a b : Word) :
    cmpLt signed a b = true ↔ orderedNum signed a < orderedNum signed b := by
  cases signed
  · simp [cmpLt, orderedNum, BitVec.ult]
  · simp [cmpLt, orderedNum, BitVec.slt]

theorem cmpLe_iff (signed : Bool) (a b : Word) :
    cmpLe signed a b = true ↔ orderedNum signed a ≤ orderedNum signed b := by
  cases signed
  · simp [cmpLe, orderedNum, BitVec.ule]
  · simp [cmpLe, orderedNum, BitVec.sle]

theorem truthWord_of_iff {b : Bool} {p : Prop} [Decidable p] (h : b = true ↔ p) :
    truthWord b = if p then 1 else 0 := by
  simp only [truthWord, h]

/-- Settles O20: each of the six outputs is the truth word of its comparison. -/
theorem aluComparisonResults : Obligations.AluComparisonResults := by
  unfold Obligations.AluComparisonResults
  intro x d g r k s inp rest hs
  refine ⟨exec_latches_alu rfl hs (truthWord_of_iff beq_iff_eq), exec_latches_alu rfl hs ?ne,
    exec_latches_alu rfl hs (truthWord_of_iff (cmpLt_iff _ _ _)),
    exec_latches_alu rfl hs (truthWord_of_iff (cmpLe_iff _ _ _)),
    exec_latches_alu rfl hs (truthWord_of_iff (cmpLt_iff _ _ _)),
    exec_latches_alu rfl hs (truthWord_of_iff (cmpLe_iff _ _ _))⟩
  exact (truthWord_of_iff bne_iff_ne).trans (ite_not _ _ _)

/-- Settles O22: codes 0x0C-0x0F are reserved, so they give 0, and with no operand read an ALU load with the other units
idle is safe in every state. -/
theorem aluUnassignedCodesGiveZero : Obligations.AluUnassignedCodesGiveZero := by
  unfold Obligations.AluUnassignedCodesGiveZero
  intro x d g r k s inp rest lo hs
  refine ⟨exec_latches_zero rfl nofun hs, fun xsrc => ?_⟩
  obtain ⟨t, hexec, hret⟩ := exec_latches_zero (i := .aluRsv0C0F lo (.hold xsrc) d .hold .ldAlu .hold) rfl nofun hs
    (cycleOk_aluLoad_of_reserved (a := .rsv0C0F lo) nofun xsrc d _ inp s)
  exact ⟨t, hexec, hret rfl⟩

/-- With the other units idle, an ALU load that reads an unwritten operand fails the check of the operands. -/
theorem firstFault_aluLoad {a : AluOp} (xsrc : BitVec 2) (d : DOp) (f : InstrFields) (inp : CycleIn) {s : State}
    (h : readsA a = true ∧ argWritten s (!s.bstate) 0 = false ∨ readsB a = true ∧ argWritten s (!s.bstate) 1 = false) :
    firstFault f ⟨.hold xsrc, d, a, .hold, .ldAlu, .hold⟩ inp s = some (.unwrittenRead s) := by
  rcases h with ⟨hreads, h⟩ | ⟨hreads, h⟩ <;>
    simp_all [firstFault, stackConflict, dvUsed, readBank]

/-- Settles O35: the commit latches the data value, or the output for the bound arguments; every operation reads A, and
every one but NOT reads B. -/
theorem returnRegisterLoads : Obligations.ReturnRegisterLoads := by
  unfold Obligations.ReturnRegisterLoads
  intro x d a g k s inp rest hs
  refine ⟨fun ok => ⟨_, exec_of_ok rfl hs ok, rfl⟩, fun ok => ?alu, fun xsrc f hA => ?operandA,
    fun xsrc f hf hB => ?operandB⟩
  case alu =>
    obtain ⟨t, hexec, hret⟩ := exec_latches_alu (i := .retLdAlu x d a g k) rfl hs rfl ok
    exact ⟨t, hexec, hret rfl⟩
  case operandA => exact exec_of_fault rfl hs (firstFault_aluLoad xsrc d _ inp (.inl ⟨rfl, hA⟩))
  case operandB =>
    have hreads : readsB (.fn f) = true := (readsB_iff _).2 ⟨rfl, fun h => hf (AluOp.fn.inj h)⟩
    exact exec_of_fault rfl hs (firstFault_aluLoad xsrc d _ inp (.inr ⟨hreads, hB⟩))

end Sys2Proof
end

/-! The execution pointer and the fields that drive it (42_exptr_fetch.md), with the stack, the banks and the return
register idle, and with any controls of them. -/

section
namespace Sys2Proof

open Sys2Proof.Machine Sys2Proof.Laws

/-! ### The words of the cycle, as numbers -/

theorem fetchFields_nInstrs_toNat (s : State) : (fetchFields s).nInstrs.toNat = (fetchWord s).toNat % 2 ^ 8 :=
  toNat_extract_bottom (fetchWord s) 8

theorem fetchFields_imm_toNat (s : State) : (fetchFields s).imm.toNat = (fetchWord s).toNat % 2 ^ 24 :=
  toNat_extract_bottom (fetchWord s) 24

theorem infoFields_entryCode_toNat (s : State) (inp : CycleIn) :
    (infoFields s inp).entryCode.toNat = (Image.read s.itab (inp.heapOut.toNat % 2 ^ 10)).toNat % 2 ^ 15 := by
  rw [← infoAddr_toNat]
  exact toNat_extract_bottom (infoWord s inp) 15

section targets

variable (f : InstrFields) (e : InfoFields) (s : State)

theorem nextExptr_inc_toNat : (nextExptr .inc f e s).toNat = (s.exptr.toNat + 1) % 2 ^ 15 :=
  BitVec.toNat_add s.exptr 1

theorem nextExptr_lit_toNat : (nextExptr .lit f e s).toNat = f.nInstrs.toNat := by
  rw [nextExptr, BitVec.toNat_setWidth]
  omega

theorem nextExptr_cont_toNat : (nextExptr .cont f e s).toNat = (stkRead s s.sp).toNat / 2 ^ 14 % 2 ^ 15 :=
  (contFields_toNat (stkRead s s.sp)).1

end targets

/-! ### The pointer's unit alone -/

/-- The controls of a cycle in which no unit but the execution pointer acts. -/
def jumpCtl (x : XOp) (d : DOp) (a : AluOp) (b : Bool) : Ctl := ⟨x, d, a, .hold, .hold b, .hold⟩

/-- Only the top of stack can be unfit: from any other source a cycle of the pointer alone is safe in every state. -/
theorem cycleOk_jumpCtl {x : XOp} (hx : x ≠ .cont) (d : DOp) (a : AluOp) (b : Bool) (f : InstrFields) (inp : CycleIn)
    (s : State) : CycleOk f (jumpCtl x d a b) inp s := by
  constructor <;> simp [jumpCtl, hx]

/-- A cycle of the pointer alone changes `exptr`, and uses its cycle up. -/
theorem commit_jumpCtl (x : XOp) (d : DOp) (a : AluOp) (b : Bool) (f : InstrFields) (e : InfoFields) (k : ContFields)
    (inp : CycleIn) (s : State) :
    commit f e k (jumpCtl x d a b) inp s = { s with exptr := nextExptr x f e s, stim := s.stim.tail } := rfl

theorem exec_jump {i : Instr} {x : XOp} {d : DOp} {a : AluOp} {b : Bool} {s : State} {inp : CycleIn}
    {rest : List CycleIn} (hi : i.ctl = some (jumpCtl x d a b)) (hx : x ≠ .cont) (hs : s.stim = inp :: rest) :
    exec i s = .next { s with exptr := nextExptr x (fetchFields s) (infoFields s inp) s, stim := rest } := by
  rw [exec_of_ok hi hs (cycleOk_jumpCtl hx d a b _ inp s), commit_jumpCtl, hs, List.tail_cons]

/-- With the pointer held too, every unit is idle. -/
theorem exec_idle {i : Instr} {xsrc : BitVec 2} {d : DOp} {a : AluOp} {b : Bool} {s : State} {inp : CycleIn}
    {rest : List CycleIn} (hi : i.ctl = some (jumpCtl (.hold xsrc) d a b)) (hs : s.stim = inp :: rest) :
    exec i s = .next { s with stim := rest } := by
  rw [exec_jump hi nofun hs, nextExptr]

/-- Settles O41: no unit acts in an idle cycle. -/
theorem idleCycleChangesNothing : Obligations.IdleCycleChangesNothing := by
  unfold Obligations.IdleCycleChangesNothing
  exact fun xsrc d a s inp rest hs => exec_idle (b := false) rfl hs

/-- Settles O28: the new pointer is the old one, the old one plus 1, or the zero-extended literal. -/
theorem exptrHoldIncrementLiteral : Obligations.ExptrHoldIncrementLiteral := by
  unfold Obligations.ExptrHoldIncrementLiteral
  intro d a g r k s inp rest hs
  refine ⟨fun xsrc ok => ⟨_, exec_of_ok rfl hs ok, rfl⟩, fun ok => ⟨_, exec_of_ok rfl hs ok, ?_⟩,
    fun ok => ⟨_, exec_of_ok rfl hs ok, ?_⟩⟩
  · exact nextExptr_inc_toNat (fetchFields s) (infoFields s inp) s
  · exact (nextExptr_lit_toNat (fetchFields s) (infoFields s inp) s).trans (fetchFields_nInstrs_toNat s)

/-- Settles O29: the new pointer is the entry code of the info-table word. -/
theorem exptrFromTheInfoTable : Obligations.ExptrFromTheInfoTable := by
  unfold Obligations.ExptrFromTheInfoTable
  intro d a g r k s inp rest hs
  refine ⟨fun ok => ⟨_, exec_of_ok rfl hs ok, infoFields_entryCode_toNat s inp⟩, fun b => ?_⟩
  rw [exec_jump (x := .itab) (b := b) rfl nofun hs, nextExptr, ← infoFields_entryCode_toNat, BitVec.ofNat_toNat,
    BitVec.setWidth_eq]

section top

variable {f : InstrFields} {inp : CycleIn} {s : State} (d : DOp) (a : AluOp) (b : Bool)

theorem firstFault_unwrittenTop (h : stkTag s s.sp = .unwritten) :
    firstFault f (jumpCtl .cont d a b) inp s = some (.unwrittenRead s) := by
  simp [firstFault, jumpCtl, stackConflict, dvUsed, h]

theorem firstFault_valueOnTop (h : stkTag s s.sp = .value) (hstrict : s.cfg.strictContTag = true) :
    firstFault f (jumpCtl .cont d a b) inp s = some (.contTagMismatch s) := by
  simp [firstFault, jumpCtl, stackConflict, dvUsed, h, hstrict]

theorem cycleOk_valueOnTop (h : stkTag s s.sp = .value) (hstrict : s.cfg.strictContTag = false) :
    CycleOk f (jumpCtl .cont d a b) inp s := by
  constructor <;> simp [jumpCtl, h, hstrict]

end top

/-- Settles O30: the new pointer is the return address on top of the stack; the two checks of the top stand last, and
the tag of a value passes them without `strictContTag`. -/
theorem exptrFromTheContinuation : Obligations.ExptrFromTheContinuation := by
  unfold Obligations.ExptrFromTheContinuation
  intro d a g r k s inp rest hs
  have htarget := nextExptr_cont_toNat (fetchFields s) (infoFields s inp) s
  refine ⟨fun ok => ⟨_, exec_of_ok rfl hs ok, htarget, fun hk => ?_⟩, fun b h => ?_, fun b h hstrict => ?_,
    fun b h hstrict => ⟨_, exec_of_ok rfl hs (cycleOk_valueOnTop d a b h hstrict), htarget⟩⟩
  · subst hk
    exact ⟨rfl, rfl⟩
  · exact exec_of_fault rfl hs (firstFault_unwrittenTop d a b h)
  · exact exec_of_fault rfl hs (firstFault_valueOnTop d a b h hstrict)

end Sys2Proof
end

/-! The data source, continued (41_data_source_mux.md R171 to R174, R176): the external inputs, the bound argument, the
immediate. -/

section
namespace Sys2Proof

open Sys2Proof.Machine Sys2Proof.Laws

theorem setWidth_eq_ofNat {n : Nat} (w : BitVec n) : w.setWidth 32 = BitVec.ofNat 32 w.toNat := by
  apply BitVec.eq_of_toNat_eq
  rw [BitVec.toNat_setWidth, BitVec.toNat_ofNat]

theorem dataValue_imm (inp : CycleIn) (s : State) :
    dataValue .imm (fetchFields s) inp s = BitVec.ofNat 32 ((Image.read s.imem s.exptr.toNat).toNat % 2 ^ 24) := by
  rw [dataValue, setWidth_eq_ofNat, fetchFields_imm_toNat, fetchWord]

/-- Settles O23: the data value is the input itself, zero-extended where it is narrower. -/
theorem dataSourceExternalInputs : Obligations.DataSourceExternalInputs := by
  unfold Obligations.DataSourceExternalInputs
  intro x a g r k s inp rest hs
  exact ⟨exec_delivers rfl hs rfl, exec_delivers rfl hs rfl, exec_delivers rfl hs (setWidth_eq_ofNat inp.newId)⟩

/-- Settles O25: the data value is the zero-extended immediate of the fetched word. -/
theorem dataSourceImmediate : Obligations.DataSourceImmediate := by
  unfold Obligations.DataSourceImmediate
  intro x a g r k s inp rest hs
  exact exec_delivers rfl hs (dataValue_imm inp s)

/-- A load of `ret` from an unwritten argument slot fails the check of the data value. -/
theorem firstFault_argLoad {f : InstrFields} {inp : CycleIn} {s : State} (xsrc : BitVec 2) (a : AluOp)
    (h : argWritten s (!s.bstate) f.argindex = false) :
    firstFault f (loadCtl xsrc .arg a) inp s = some (.unwrittenRead s) := by
  simp [firstFault, loadCtl, stackConflict, dvUsed, readBank, h]

/-- Settles O24: a consumed slot of a safe cycle is written, so its word is the bound argument; a load of an unwritten
one fails its check; with no consumer every unit is idle. -/
theorem dataSourceBoundArgument : Obligations.DataSourceBoundArgument := by
  unfold Obligations.DataSourceBoundArgument
  intro x a g r k s inp rest hs
  dsimp only
  rw [← fetchFields_argindex]
  exact ⟨fun ok => ⟨_, exec_of_ok rfl hs ok, commit_delivers_boundArg ok _ _ rfl⟩,
    fun xsrc h => exec_of_fault rfl hs (firstFault_argLoad xsrc a h), fun xsrc b => exec_idle (b := b) rfl hs⟩

end Sys2Proof
end

/-! The argument banks, continued (44_arg_bank.md R252, R255, R256): the write, alone and with a switch; the hold. -/

section
namespace Sys2Proof

open Sys2Proof.Machine Sys2Proof.Laws

/-- A ninth write fails its check, with the other units idle. -/
theorem firstFault_ninthWrite {g : ArgOp} (hg : g = .we ∨ g = .weSw) (xsrc : BitVec 2) (d : DOp) (a : AluOp) (b : Bool)
    (f : InstrFields) (inp : CycleIn) {s : State} (h : s.awrites = 8) :
    firstFault f ⟨.hold xsrc, d, a, g, .hold b, .hold⟩ inp s = some (.argOverflow s) := by
  simp [firstFault, stackConflict, hg, h]

/-- Settles O31: the write goes to the slot at the counter, both counters move on, and a ninth write fails its check. -/
theorem argumentWrite : Obligations.ArgumentWrite := by
  unfold Obligations.ArgumentWrite
  intro x d a r k s inp rest hs
  refine ⟨fun ok => ?_, fun xsrc b h => exec_of_fault rfl hs (firstFault_ninthWrite (.inl rfl) xsrc d a b _ inp h)⟩
  obtain ⟨hread, hwritten⟩ := commit_argument_of_write (fetchFields s) (infoFields s inp) (contNow s inp)
    ⟨x, d, a, .we, r, k⟩ inp s (.inl rfl)
  exact ⟨_, exec_of_ok rfl hs ok, hread, hwritten, rfl, BitVec.toNat_add s.acount 1, rfl⟩

/-- Settles O33: after the flip the old write bank is the read bank, and its slot at the old counter holds what was
written. -/
theorem argumentWriteWithSwitch : Obligations.ArgumentWriteWithSwitch := by
  unfold Obligations.ArgumentWriteWithSwitch
  intro x d a r k s inp rest hs
  refine ⟨fun ok => ⟨_, exec_of_ok rfl hs ok, ?_⟩,
    fun xsrc b h => exec_of_fault rfl hs (firstFault_ninthWrite (.inr rfl) xsrc d a b _ inp h)⟩
  obtain ⟨hread, hwritten⟩ := commit_argument_of_write (fetchFields s) (infoFields s inp) (contNow s inp)
    ⟨x, d, a, .weSw, r, k⟩ inp s (.inr rfl)
  generalize ht : commit (fetchFields s) (infoFields s inp) (contNow s inp) ⟨x, d, a, .weSw, r, k⟩ inp s = t at *
  have hflip : t.bstate = !s.bstate := by rw [← ht]; exact nextBstate_of_switch s (.inr rfl)
  have hrole : s.bstate = !t.bstate := by rw [hflip, Bool.not_not]
  rw [hrole] at hread hwritten
  refine ⟨(argRead_of_written hwritten).symm.trans hread, hwritten, hflip, ?_, ?_⟩
  · rw [← ht]; exact nextAcount_of_switch s (.inr rfl)
  · rw [← ht]; exact nextAwrites_of_switch s (.inr rfl)

/-- Settles O34: the commit of a cycle with neither signal takes the banks, their roles and the counters over. -/
theorem argumentBanksHold : Obligations.ArgumentBanksHold := by
  unfold Obligations.ArgumentBanksHold
  intro x d a r k s inp rest hs ok
  exact ⟨_, exec_of_ok rfl hs ok, commit_bank_of_no_write s (.inl rfl) false,
    commit_bank_of_no_write s (.inl rfl) true, rfl, rfl, rfl⟩

end Sys2Proof
end

/-! The evaluation stack, continued (43_eval_stack.md): the pushes, the pops, and their two faults. -/

section
namespace Sys2Proof

open Sys2Proof.Machine Sys2Proof.Laws

section faults

variable {f : InstrFields} {c : Ctl} {inp : CycleIn} {s : State}

theorem firstFault_overflow (hk : c.k = .wv ∨ c.k = .wc) (hsp : s.sp = 0x7FFF) :
    firstFault f c inp s = some (.stackOverflow s) := by
  rcases hk with hk | hk <;> simp [firstFault, stackConflict, hk, hsp]

theorem firstFault_underflow (h : c.k = .dec ∧ s.sp = 0 ∨ c.k = .clr ∧ s.sp.toNat < inp.nLocals.toNat) :
    firstFault f c inp s = some (.stackUnderflow s) := by
  rcases h with ⟨hk, hsp⟩ | ⟨hk, hsp⟩ <;> simp [firstFault, stackConflict, hk, hsp]

end faults

/-- The record under construction saves the pointer plus the offset, modulo 2^15. -/
theorem contNow_cExptr_toNat (s : State) (inp : CycleIn) :
    (contNow s inp).cExptr.toNat = (s.exptr.toNat + s.cfg.contExptrOffset.toNat) % 2 ^ 15 := by
  rw [contNow, BitVec.toNat_add, BitVec.toNat_setWidth]
  omega

/-- Settles O38: the new top is the slot above the old one, which holds the data value or the record's word; with no
slot above the old top both pushes fail the check of the overflow. -/
theorem stackPushes : Obligations.StackPushes := by
  unfold Obligations.StackPushes
  intro x d a g r s inp rest hs
  refine ⟨fun ok => ⟨_, exec_of_ok rfl hs ok, nextSp_push_toNat ok (.inl rfl), ?value⟩,
    fun ok => ⟨_, exec_of_ok rfl hs ok, nextSp_push_toNat ok (.inr rfl), ?record⟩,
    fun hsp => ⟨exec_of_fault rfl hs (firstFault_overflow (.inl rfl) hsp),
      exec_of_fault rfl hs (firstFault_overflow (.inr rfl) hsp)⟩⟩
  case value => exact commit_stack_of_wv _ _ _ ⟨x, d, a, g, r, .wv⟩ inp s rfl
  case record =>
    obtain ⟨hread, htag⟩ := commit_stack_of_wc (fetchFields s) (infoFields s inp) (contNow s inp)
      ⟨x, d, a, g, r, .wc⟩ inp s rfl
    refine ⟨(congrArg BitVec.toNat hread).trans ?_, htag⟩
    rw [encodeCont_toNat, contNow_cExptr_toNat]
    rfl

/-- Settles O39: both pops lower the pointer without a wrap and write no slot; below slot 0 both fail the check of the
underflow. -/
theorem stackPops : Obligations.StackPops := by
  unfold Obligations.StackPops
  intro x d a g r s inp rest hs
  exact ⟨fun ok => ⟨_, exec_of_ok rfl hs ok, nextSp_dec_toNat ok rfl, rfl⟩,
    fun ok => ⟨_, exec_of_ok rfl hs ok, nextSp_clr_toNat ok rfl, rfl⟩,
    fun hsp => exec_of_fault rfl hs (firstFault_underflow (.inl ⟨rfl, hsp⟩)),
    fun hsp => exec_of_fault rfl hs (firstFault_underflow (.inr ⟨rfl, hsp⟩))⟩

end Sys2Proof
end

/-! The three rows of 32 bits (40_field_decoder.md section 4, 43_eval_stack.md R222): the word in its place of the
host's cycle. -/

section
namespace Sys2Proof

open Sys2Proof.Machine Sys2Proof.Laws

/-- Settles O42: the commit takes the literal, the immediate and the argument index from the word. -/
theorem instructionFieldsReachTheirUnits : Obligations.InstructionFieldsReachTheirUnits := by
  unfold Obligations.InstructionFieldsReachTheirUnits
  intro f s inp rest hs ok
  refine ⟨_, (execInstr_cons hs).trans (cycle_of_ok ok), fun hx => ?literal, fun hd => ?immediate, fun hd => ?argument⟩
  case literal => rw [commit_exptr, hx, nextExptr_lit_toNat]
  case immediate =>
    refine commit_delivered _ _ _ _ _ _ fun _ => ?_
    rw [hd, dataValue, setWidth_eq_ofNat]
  case argument => exact commit_delivers_boundArg ok _ _ hd

/-- Settles O43: the commit takes the entry code from the word. -/
theorem infoEntryCodeReachesTheExptr : Obligations.InfoEntryCodeReachesTheExptr := by
  unfold Obligations.InfoEntryCodeReachesTheExptr
  intro e s inp rest hs ok
  exact ⟨_, (execInfo_cons hs).trans (cycle_of_ok ok), fun hx => by rw [commit_exptr, hx, nextExptr]⟩

/-- Settles O44: a push of a continuation writes the record's word, and the commit of any other cycle does not depend on
the record. -/
theorem continuationRecordIsPushed : Obligations.ContinuationRecordIsPushed := by
  unfold Obligations.ContinuationRecordIsPushed
  intro c s inp rest hs
  refine ⟨fun ok => ⟨_, (execCont_cons hs).trans (cycle_of_ok ok), fun hk => ?_⟩, fun hk => ?_⟩
  · obtain ⟨hread, htag⟩ := commit_stack_of_wc (fetchFields s) (infoFields s inp) c (ctlOf s inp) inp s hk
    exact ⟨htag, by rw [hread, encodeCont_toNat]⟩
  · have hcommit : commit (fetchFields s) (infoFields s inp) c (ctlOf s inp) inp s =
        commit (fetchFields s) (infoFields s inp) (contNow s inp) (ctlOf s inp) inp s :=
      commit_congr (fun _ => rfl) rfl (fun h => absurd h hk) (fun _ => rfl)
    rw [exec, execCont_cons hs, step_eq_cycle hs, cycle, cycle, hcommit]

end Sys2Proof
end

/-! More than one cycle (43_eval_stack.md section 5, 44_arg_bank.md section 6): a continuation pushed and returned to,
and arguments assembled and bound. -/

section
namespace Sys2Proof

open Sys2Proof.Machine Sys2Proof.Laws

/-- The controls of RETURN, with any unused selectors. -/
def returnCtl (d : DOp) (a : AluOp) (b : Bool) : Ctl := ⟨.cont, d, a, .hold, .hold b, .dec⟩

/-- RETURN is safe above slot 0 with a continuation on top. -/
theorem cycleOk_returnCtl {s : State} (hsp : s.sp ≠ 0) (htop : stkTag s s.sp = .cont) (d : DOp) (a : AluOp) (b : Bool)
    (f : InstrFields) (inp : CycleIn) : CycleOk f (returnCtl d a b) inp s := by
  constructor <;> simp [returnCtl, htop]
  exact hsp

/-- Settles O55: the push leaves the old pointer's record on the new top, and RETURN reads it there and pops it. -/
theorem continuationRoundTrip : Obligations.ContinuationRoundTrip := by
  unfold Obligations.ContinuationRoundTrip
  intro s t inp inp' rest d a b hs hoffset hk hstep hctl
  obtain ⟨ok, ht⟩ := (step_eq_next_iff hs).1 hstep
  have hstim : t.stim = inp' :: rest := by rw [ht, commit_stim, hs, List.tail_cons]
  have hsp : t.sp = s.sp + 1 := by rw [ht, commit_sp, hk, nextSp]
  obtain ⟨htop, htag⟩ := commit_stack_of_wc (fetchFields s) (infoFields s inp) (contNow s inp) _ inp s hk
  rw [← ht, ← hsp] at htop htag
  have hpos : t.sp ≠ 0 := by
    have hroom := ok.noOverflow (.inr hk)
    rw [hsp]
    bv_omega
  have hctl' : ctlOf t inp' = returnCtl d a b := by rw [ctlOf, ht, commit_cfg]; exact hctl
  refine ⟨_, (step_eq_next_iff hstim).2 ⟨hctl' ▸ cycleOk_returnCtl hpos htag d a b _ inp', rfl⟩, ?_, ?_⟩
  · rw [commit_exptr, hctl', returnCtl, nextExptr, tos, htop, contFields_encodeCont, contNow, hoffset]
    exact BitVec.add_zero s.exptr
  · rw [commit_sp, hctl', returnCtl, nextSp, hsp]
    bv_omega

/-! ### The argument bank over a run -/

theorem run_succ_of_next {M : Host.Core} {s t : M.State} (h : M.step s = .next t) (n : Nat) :
    M.run (n + 1) s = M.run n t := by
  rw [Host.Core.run, h]

/-- The host's cycle of the control vector 0x4000: write `v` from the locals output. -/
def writeCycle (v : Word) : CycleIn := { CycleIn.ofVector 0x4000 with localsOut := v }

/-- The host's cycle of the control vector 0x8000: switch the banks. -/
def switchCycle : CycleIn := CycleIn.ofVector 0x8000

theorem ctlOf_writeCycle (s : State) (v : Word) :
    ctlOf s (writeCycle v) = ⟨.hold 0, .loc, AluOp.ofBits s.cfg.aluOpMap 0, .we, .hold false, .hold⟩ := by
  have hcv : (writeCycle v).cv = 0x4000 := rfl
  rw [ctlOf, hcv]
  rfl

theorem ctlOf_switchCycle (s : State) :
    ctlOf s switchCycle = switchCtl 0 .loc (AluOp.ofBits s.cfg.aluOpMap 0) false := rfl

/-- A write with room in the bank completes: the slot at the counter holds the word, and both counters move on. -/
theorem step_writeCycle {s : State} {v : Word} {rest : List CycleIn} (hs : s.stim = writeCycle v :: rest)
    (hroom : s.awrites ≠ 8) :
    ∃ t, step s = .next t ∧ t.stim = rest ∧ t.bstate = s.bstate ∧ t.acount = s.acount + 1 ∧
      t.awrites = s.awrites + 1 ∧ ∀ i : BitVec 3, (bank t s.bstate)[i.toNat]'i.isLt =
        if i = s.acount then { val := v, written := true } else (bank s s.bstate)[i.toNat]'i.isLt := by
  have ok : CycleOk (fetchFields s) (ctlOf s (writeCycle v)) (writeCycle v) s := by
    rw [ctlOf_writeCycle]
    constructor <;> simp [hroom]
  refine ⟨_, (step_eq_next_iff hs).2 ⟨ok, rfl⟩, by rw [commit_stim, hs, List.tail_cons], ?_, ?_, ?_, fun i => ?_⟩
  · rw [commit_bstate, ctlOf_writeCycle, nextBstate]
  · rw [commit_acount, ctlOf_writeCycle, nextAcount]
  · rw [commit_awrites, ctlOf_writeCycle, nextAwrites]
  · rw [slot_commit, ctlOf_writeCycle]
    simp only [dataValue, writeCycle, true_or, true_and]

/-- A switch completes, and changes the roles and the counters alone. -/
theorem step_switchCycle {s : State} {rest : List CycleIn} (hs : s.stim = switchCycle :: rest) :
    step s = .next { s with bstate := !s.bstate, acount := 0, awrites := 0, stim := rest } := by
  refine (step_eq_next_iff hs).2 ⟨?_, ?_⟩
  · rw [ctlOf_switchCycle]
    exact cycleOk_switchCtl ..
  · rw [ctlOf_switchCycle, commit_switchCtl, hs, List.tail_cons]

/-- Writes that the bank has room for, then a switch: the slots written before stay, and the words follow them. -/
theorem run_writes_then_switch (vs : List Word) (rest : List CycleIn) (s : State) (hroom : s.awrites + vs.length ≤ 8)
    (hcount : s.acount = BitVec.ofNat 3 s.awrites) (hs : s.stim = vs.map writeCycle ++ switchCycle :: rest) :
    ∃ t : State, Host.Core.run core (vs.length + 1) s = .next t ∧ t.acount = 0 ∧ t.stim = rest ∧
      t.bstate = (!s.bstate) ∧
      (∀ i : BitVec 3, i.toNat < s.awrites →
        (bank t s.bstate)[i.toNat]'i.isLt = (bank s s.bstate)[i.toNat]'i.isLt) ∧
      (∀ (i : BitVec 3) (v : Word), s.awrites ≤ i.toNat → vs[i.toNat - s.awrites]? = some v →
        (bank t s.bstate)[i.toNat]'i.isLt = { val := v, written := true }) := by
  induction vs generalizing s with
  | nil =>
    have hstep := step_switchCycle hs
    exact ⟨_, run_succ_of_next (M := core) hstep 0, rfl, rfl, rfl, fun i _ => rfl, nofun⟩
  | cons w vs ih =>
    rw [List.length_cons] at hroom
    obtain ⟨t, hstep, hstim, hrole, hcount', hwrites, hslots⟩ := step_writeCycle (rest := _ ++ _) hs (by omega)
    obtain ⟨u, hrun, hzero, hrest, hflip, hkept, hwords⟩ :=
      ih t (by omega) (by rw [hcount', hwrites, hcount, BitVec.ofNat_add]; rfl) hstim
    rw [hrole, hwrites] at hkept hwords
    refine ⟨u, (run_succ_of_next hstep _).trans hrun, hzero, hrest, by rw [hflip, hrole], fun i hi => ?_,
      fun i v hi hv => ?_⟩
    · have hne : i ≠ s.acount := by
        rw [hcount]
        bv_omega
      rw [hkept i (by omega), hslots, if_neg hne]
    · by_cases hfirst : i.toNat = s.awrites
      · have heq : i = s.acount := by
          rw [hcount]
          bv_omega
        rw [hfirst, Nat.sub_self, List.getElem?_cons_zero, Option.some.injEq] at hv
        rw [hkept i (by omega), hslots, if_pos heq, hv]
      · have hsub : i.toNat - s.awrites = i.toNat - (s.awrites + 1) + 1 := by omega
        rw [hsub, List.getElem?_cons_succ] at hv
        exact hwords i v (by omega) hv

/-- Settles O56: with nothing written since the flip, the words fill the write bank from slot 0 on, and the switch makes
it the read bank. -/
theorem argumentBankRoundTrip : Obligations.ArgumentBankRoundTrip := by
  unfold Obligations.ArgumentBankRoundTrip
  intro s vs rest hlen hwrites hcount hs
  obtain ⟨t, hrun, hzero, hrest, hflip, -, hwords⟩ :=
    run_writes_then_switch vs rest s (by omega) (by rw [hcount, hwrites]; rfl) hs
  refine ⟨t, hrun, hzero, hrest, fun i v hv => ?_⟩
  have hslot := hwords i v (by omega) (by rw [hwrites]; exact hv)
  have hread : (!t.bstate) = s.bstate := by rw [hflip, Bool.not_not]
  rw [boundArg_eq_bank, argWritten, hread, hslot]
  exact ⟨rfl, rfl⟩

end Sys2Proof
end

/-! The reads and the outputs of a cycle (70_reset_and_hazards.md section 3, 46_cycle_step.md R324): all of them see the
state before the commit. -/

section
namespace Sys2Proof

open Sys2Proof.Machine Sys2Proof.Laws

/-- Settles O57: a completed step is the commit of a safe cycle, and every unit of a commit reads the old state. -/
theorem readsSeeTheCommittedState : Obligations.ReadsSeeTheCommittedState := by
  unfold Obligations.ReadsSeeTheCommittedState
  intro s t inp rest hs hstep
  obtain ⟨ok, rfl⟩ := (step_eq_next_iff hs).1 hstep
  refine ⟨fun hd => ?imm, fun hd => ?arg, fun hd => ?ret, fun hr => commit_ret_of_ldAlu ok _ _ hr, fun hx => ?inc,
    fun hx => ?lit, fun hx => ?cont, fun hk => ?record, commit_argument_of_write _ _ _ _ _ _, rfl⟩
  case imm => exact commit_delivered _ _ _ _ _ _ fun _ => by rw [hd, dataValue_imm]
  case arg =>
    have hindex := fetchFields_argindex s
    rw [fetchWord] at hindex
    rw [← hindex]
    exact commit_delivers_boundArg ok _ _ hd
  case ret => exact commit_delivered _ _ _ _ _ _ fun _ => by rw [hd, dataValue_ret]
  case inc => rw [commit_exptr, hx, nextExptr_inc_toNat]
  case lit => rw [commit_exptr, hx, nextExptr_lit_toNat, fetchFields_nInstrs_toNat, fetchWord]
  case cont => rw [commit_exptr, hx, nextExptr_cont_toNat]
  case record =>
    have hword := encodeCont_toNat (contNow s inp)
    rw [(commit_stack_of_wc _ _ _ _ _ _ hk).1, ← contNow_cExptr_toNat s inp]
    omega

/-- Settles O58: the sample is made of the state and the coming inputs, and the commit of a completed step takes the
same data value, ALU output, top of stack and entry code. -/
theorem outputsAreWhatTheCycleUses : Obligations.OutputsAreWhatTheCycleUses := by
  unfold Obligations.OutputsAreWhatTheCycleUses
  intro s inp rest hs
  have hindex := fetchFields_argindex s
  rw [fetchWord] at hindex
  refine ⟨outputs s inp, by rw [sample, hs], ⟨rfl, rfl, rfl, rfl, rfl⟩, rfl, decodeInstr_toNat (fetchWord s), ?info,
    ⟨rfl, ?port, rfl, rfl⟩, fun i hi => argRead_of_written hi, fun t hstep => ?commits⟩
  case info =>
    rw [← infoAddr_toNat]
    obtain ⟨harity, hnptrs, hnvars, hentry⟩ := decodeInfo_toNat (infoWord s inp)
    exact ⟨hentry, hnvars, hnptrs, harity⟩
  case port => exact congrArg (argRead s (!s.bstate)) hindex
  case commits =>
    obtain ⟨ok, rfl⟩ := (step_eq_next_iff hs).1 hstep
    refine ⟨fun hr => ?_, fun hr => ?_, fun hk => ?_, fun hg => ?_, fun hx => ?_, fun hx => ?_⟩
    · rw [commit_ret, hr, nextRet, outputs]
    · rw [commit_ret, hr, nextRet, outputs]
    · rw [commit_sp, hk, nextSp]
      exact (commit_stack_of_wv _ _ _ _ _ _ hk).1
    · exact (commit_argument_of_write _ _ _ _ _ _ hg).1
    · rw [commit_exptr, hx, nextExptr, outputs]
    · rw [commit_exptr, hx, nextExptr, outputs]

end Sys2Proof
end
